-- ==== Sys2Proof/Word.lean ====
section
/-!
DEFINITION. The machine's plain value types (rules R12, R13, R31, R34).
-/

namespace Sys2Proof

/-- One byte of a delay memory's layout. -/
abbrev Byte := BitVec 8

/-- One word of a delay memory: a signed 32-bit two's complement integer (rule R31). -/
abbrev Word := BitVec 32

/-- A coefficient: a signed 16-bit integer `g` that stands for `g / 4096` (rules R12, R34). -/
abbrev Coef := BitVec 16

/-- An amplitude: the spec models it as a rational number (rule R13). -/
abbrev Amplitude := Rat

end Sys2Proof
end

