-- ==== Sys2Proof/Config.lean ====
section
/-!
DEFINITION. The configuration record CFG of the block (rules R7 to R10, R49), the open functions it names
(numerics and limiter curve, with the laws the spec gives them), and the free values.
-/

namespace Sys2Proof

/-- The ten Delay Buffers: comb slots C0..C5 and all-pass slots A0..A3 (rule R15). -/
inductive Slot where
  | comb (i : Fin 6)
  | ap (s : Fin 4)
  deriving DecidableEq, Repr

/-- The slots in the order of rule R231: C0, C1, C2, C3, C4, C5, A0, A1, A2, A3. -/
def Slot.all : List Slot :=
  [.comb 0, .comb 1, .comb 2, .comb 3, .comb 4, .comb 5, .ap 0, .ap 1, .ap 2, .ap 3]

/-- One value for each of the ten slots. -/
structure Bank (α : Type) where
  comb : Vector α 6
  ap   : Vector α 4
  deriving DecidableEq, Repr, Inhabited

/-- The value of one slot. -/
def Bank.get {α : Type} (k : Bank α) : Slot → α
  | .comb i => k.comb.get i
  | .ap s   => k.ap.get s

/-- The bank with one slot's value replaced. -/
def Bank.set {α : Type} (k : Bank α) (b : Slot) (v : α) : Bank α :=
  match b with
  | .comb i => { k with comb := k.comb.set i v }
  | .ap s   => { k with ap := k.ap.set s v }

/-- What the dry path multiplies (rules R9, R204). -/
inductive DrySrc where
  /-- The input amplitude as the host supplied it: the default. -/
  | raw
  /-- The input amplitude scaled by the ramp. -/
  | ramped
  deriving DecidableEq, Repr, Inhabited

/-- Which numerics record `NUM` the configuration binds (rule R190). -/
inductive NumChoice where
  /-- An implementation's own numerics: open, known by the laws of rule R191 alone. -/
  | impl
  /-- The reference instance NUM_EXACT of rule R192. -/
  | exact
  deriving DecidableEq, Repr, Inhabited

/-- Which limiter curve `softclip` the configuration binds (rule R175). -/
inductive CurveChoice where
  /-- An implementation's own curve: open, known by the laws SC1 to SC4 of rule R177 alone. -/
  | impl
  /-- The test curve of rule R182. -/
  | test
  deriving DecidableEq, Repr, Inhabited

/-- The configuration record CFG (rules R8, R9, R49): constant over a run, written by no command. -/
structure Cfg where
  /-- `CAP[b]`, the capacity of each Delay Buffer. -/
  cap        : Bank Nat
  /-- `PRE[i]`, the pre-delay offset of comb slot Ci. -/
  pre        : Vector Nat 6
  /-- `XOFF[i][j]` for i in 3..5 and j in 0..2, the row of slot Ci standing at i - 3. -/
  xoff       : Vector (Vector Nat 3) 3
  /-- `APOFF[s]`, the delay offset of all-pass slot As. -/
  apoff      : Vector Nat 4
  /-- `GT[r][c]`, the Gain Table: a read-only memory of 65 rows of 6 coefficients (rule R36). -/
  gt         : Vector (Vector Coef 6) 65
  /-- `AP_GAIN`, the common all-pass coefficient (rule R130). -/
  apGain     : Coef
  /-- `CEIL`, the ceiling of the Soft Limiter. -/
  ceil       : Amplitude
  /-- `RAMP_STEP`, the step of the input-gain ramp. -/
  rampStep   : Amplitude
  /-- `RAMP_EPS`, the snap distance of the input-gain ramp. -/
  rampEps    : Amplitude
  /-- `SAMPLE_FRAC`, the fractional bits of the sample domain. -/
  sampleFrac : Nat
  /-- `DRY_SRC`, what the dry path multiplies. -/
  drySrc     : DrySrc
  /-- The numerics record the configuration binds. -/
  numChoice  : NumChoice
  /-- The limiter curve the configuration binds. -/
  curve      : CurveChoice
  deriving DecidableEq, Repr, Inhabited

/-- A power of two, `n = 2^k` for some `k >= 0` (rule R10). -/
def isPowerOfTwo (n : Nat) : Bool := n == 2 ^ n.log2

/-- The first slot, in the order of rule R231, whose capacity is not a power of two. -/
def Cfg.firstOffender (c : Cfg) : Option Slot := Slot.all.find? fun b => !isPowerOfTwo (c.cap.get b)

/-- The power-of-two clause of WF(CFG): the only one the document gives (rule R10). -/
def Cfg.capsOk (c : Cfg) : Bool := Slot.all.all fun b => isPowerOfTwo (c.cap.get b)

/-- An offset of slot `b` lies in range, `d < CAP[b]` (rule R8), asked of a legal capacity only: a capacity that
is no power of two is ConfigFatal's business and not a broken offset. -/
def Cfg.offsetOk (c : Cfg) (b : Slot) (d : Nat) : Bool :=
  !isPowerOfTwo (c.cap.get b) || d < c.cap.get b

/-- The offset clauses of WF(CFG) (rules R8, R10). -/
def Cfg.offsetsOk (c : Cfg) : Bool :=
  ((List.finRange 6).all fun i => c.offsetOk (.comb i) (c.pre.get i))
  && ((List.finRange 3).all fun k =>
       (List.finRange 3).all fun j => c.offsetOk (.comb (k.natAdd 3)) ((c.xoff.get k).get j))
  && ((List.finRange 4).all fun s => c.offsetOk (.ap s) (c.apoff.get s))

/-- The clauses of WF(CFG) about scalar constants (rule R10). -/
def Cfg.scalarsOk (c : Cfg) : Bool :=
  decide (-4096 ≤ c.apGain.toInt) && decide (c.apGain.toInt ≤ 4096)
  && decide (0 < c.ceil)
  && decide (0 < c.rampStep) && decide (c.rampStep ≤ 1)
  && decide (0 < c.rampEps) && decide (c.rampEps ≤ 1)
  && decide (c.sampleFrac ≤ 30)

/-- Row 0 of the Gain Table is all zero (rules R8, R10, R36). -/
def Cfg.rowZeroOk (c : Cfg) : Bool := c.gt.get 0 == Vector.replicate 6 0#16

/-- The admission conditions of rule R10 other than the power-of-two clause. The clauses that a type carries
(65 rows of 6 entries, each a signed 16-bit number) and the laws of `softclip`, which hold of the curve that a
configuration names (`Cfg.softclip_lawful`), need no check. -/
def Cfg.admitted (c : Cfg) : Bool := c.offsetsOk && c.rowZeroOk && c.scalarsOk

/-- WF(CFG) (rule R10). -/
def Cfg.wf (c : Cfg) : Bool := c.capsOk && c.admitted

/-! ## The numerics record and the limiter curve -/

/-- The fields of NUM that vary (rule R190): rounding, amplitude to sample, sample-domain integer to amplitude. -/
structure Numerics where
  rnd   : Amplitude → Amplitude
  toFix : Amplitude → Int
  toAmp : Int → Amplitude

/-- The scale `2^SAMPLE_FRAC` of the sample domain against an amplitude (rules R8, R12). -/
def scaleOf (f : Nat) : Rat := ((2 ^ f : Nat) : Rat)

theorem scaleOf_pos (f : Nat) : 0 < scaleOf f := by unfold scaleOf; positivity

/-- An amplitude is in the contract range of `toFix`: `|a| × 2^SAMPLE_FRAC < 2^31` (rules R191, R202). -/
abbrev Cfg.InContract (c : Cfg) (a : Amplitude) : Prop := |a| * scaleOf c.sampleFrac < 2147483648

/-- The ramp value after one update and before the snap test (rules R191 N5, R208). -/
def Numerics.rampUpdate (n : Numerics) (step r : Amplitude) : Amplitude :=
  n.rnd (r + n.rnd (n.rnd (1 - r) * step))

/-- The laws N1 to N7 that every NUM satisfies (rule R191). `toAmp` is taken monotone and odd on the
sample range only. -/
structure Numerics.Lawful (n : Numerics) (c : Cfg) : Prop where
  rnd_rnd     : ∀ q, n.rnd (n.rnd q) = n.rnd q
  rnd_mono    : ∀ p q, p ≤ q → n.rnd p ≤ n.rnd q
  rnd_neg     : ∀ q, n.rnd (-q) = -n.rnd q
  rnd_zero    : n.rnd 0 = 0
  rnd_half    : n.rnd (1 / 2) = 1 / 2
  rnd_one     : n.rnd 1 = 1
  ramp_up     : ∀ r, n.rnd r = r → 0 ≤ r → r < 1 →
                  r ≤ n.rampUpdate c.rampStep r ∧ n.rampUpdate c.rampStep r ≤ 1
  toFix_zero  : n.toFix 0 = 0
  toAmp_zero  : n.toAmp 0 = 0
  toFix_range : ∀ a, c.InContract a → -2 ^ 31 ≤ n.toFix a ∧ n.toFix a < 2 ^ 31
  toFix_mono  : ∀ a b, c.InContract a → c.InContract b → a ≤ b → n.toFix a ≤ n.toFix b
  toFix_neg   : ∀ a, c.InContract a → n.toFix (-a) = -n.toFix a
  toAmp_mono  : ∀ u v : Int, |u| < 2 ^ 31 → |v| < 2 ^ 31 → u ≤ v → n.toAmp u ≤ n.toAmp v
  toAmp_neg   : ∀ v : Int, |v| < 2 ^ 31 → n.toAmp (-v) = -n.toAmp v

/-- The integer part toward zero. -/
def truncate (q : Rat) : Int := if 0 ≤ q then q.floor else -(-q).floor

/-- The reference instance NUM_EXACT at `SAMPLE_FRAC = f` (rule R192). -/
def Numerics.exact (f : Nat) : Numerics where
  rnd q   := q
  toFix a := truncate (a * scaleOf f)
  toAmp v := v / scaleOf f

/-- The laws SC1 to SC3 of a curve at the configured ceiling `c` (rule R177); SC4, that the result depends on
the operands alone, is that the curve is a function. -/
structure CurveLawful (f : Amplitude → Amplitude → Amplitude) (c : Amplitude) : Prop where
  mono    : ∀ d e, 0 ≤ d → d ≤ e → f c d ≤ f c e
  bounded : ∃ top, ∀ e, 0 ≤ e → f c e ≤ top
  sign    : ∀ e, 0 ≤ e → 0 < c + f c e

/-- The test curve of rule R182: `e / (1 + e)`. -/
def testCurve (_c e : Amplitude) : Amplitude := e / (1 + e)

theorem truncate_neg (q : Rat) : truncate (-q) = -truncate q := by
  unfold truncate
  rcases lt_trichotomy q 0 with h | h | h
  · rw [if_pos (by linarith), if_neg (by linarith)]; simp
  · subst h; decide +kernel
  · rw [if_neg (by linarith), if_pos h.le]; simp

theorem truncate_mono {p q : Rat} (h : p ≤ q) : truncate p ≤ truncate q := by
  unfold truncate
  split <;> split
  · exact Rat.floor_monotone h
  · linarith
  · have h1 : (0 : Int) ≤ q.floor := Rat.le_floor_iff.mpr (by simpa)
    have h2 : (0 : Int) ≤ (-p).floor := Rat.le_floor_iff.mpr (by push_cast; linarith)
    omega
  · have := Rat.floor_monotone (show -q ≤ -p by linarith)
    omega

/-- NUM_EXACT satisfies N1 to N7 whenever `0 < RAMP_STEP <= 1` (rule R192). -/
theorem Numerics.exact_lawful (c : Cfg) (h0 : 0 < c.rampStep) (h1 : c.rampStep ≤ 1) :
    (Numerics.exact c.sampleFrac).Lawful c where
  rnd_rnd _ := rfl
  rnd_mono _ _ h := h
  rnd_neg _ := rfl
  rnd_zero := rfl
  rnd_half := rfl
  rnd_one := rfl
  ramp_up r _ _ h := by
    simp only [Numerics.rampUpdate, Numerics.exact]
    constructor <;> nlinarith
  toFix_zero := by simp only [Numerics.exact, truncate, zero_mul]; decide +kernel
  toAmp_zero := by simp [Numerics.exact]
  toFix_range a h := by
    have hq : |a * scaleOf c.sampleFrac| < 2147483648 := by
      rw [abs_mul, abs_of_pos (scaleOf_pos _)]; exact h
    obtain ⟨hl, hu⟩ := abs_lt.mp hq
    simp only [Numerics.exact, truncate]
    split
    · have h0 : (0 : Int) ≤ (a * scaleOf c.sampleFrac).floor :=
        Rat.le_floor_iff.mpr (by simpa only [Int.cast_zero] using ‹_›)
      have h1 : (a * scaleOf c.sampleFrac).floor < 2147483648 := Rat.floor_lt_iff.mpr (by exact_mod_cast hu)
      omega
    · have h0 : (0 : Int) ≤ (-(a * scaleOf c.sampleFrac)).floor :=
        Rat.le_floor_iff.mpr (by push_cast; linarith)
      have h1 : (-(a * scaleOf c.sampleFrac)).floor < 2147483648 :=
        Rat.floor_lt_iff.mpr (by push_cast; linarith)
      omega
  toFix_mono a b _ _ h := truncate_mono (mul_le_mul_of_nonneg_right h (scaleOf_pos _).le)
  toFix_neg a _ := by simp only [Numerics.exact, neg_mul, truncate_neg]
  toAmp_mono u v _ _ h := by
    simp only [Numerics.exact]
    exact div_le_div_of_nonneg_right (by exact_mod_cast h) (scaleOf_pos _).le
  toAmp_neg v _ := by simp only [Numerics.exact]; push_cast; ring

/-- The test curve satisfies SC1 to SC3 at every positive ceiling, with bound 1 (rule R182). -/
theorem testCurve_lawful (c : Amplitude) (h : 0 < c) : CurveLawful testCurve c where
  mono d e hd he := by
    unfold testCurve
    rw [div_le_div_iff₀ (by linarith) (by linarith)]; nlinarith
  bounded := ⟨1, fun e he => by
    unfold testCurve; rw [div_le_one (by linarith)]; linarith⟩
  sign e he := by
    have : 0 ≤ testCurve c e := by unfold testCurve; positivity
    linarith

/-! ## The configuration that is bound, and the open functions -/

/-- The test configuration CFG_T of spec/95_test_vectors.md section 1: the spec's own, used for test vectors and
as the witness that an admitted configuration exists; nothing of the machine takes a value from it. -/
def Cfg.cfgT : Cfg where
  cap        := ⟨#v[8, 8, 8, 16, 16, 16], #v[8, 8, 4, 4]⟩
  pre        := #v[3, 5, 7, 4, 9, 13]
  xoff       := #v[#v[1, 2, 3], #v[2, 5, 6], #v[3, 7, 11]]
  apoff      := #v[5, 3, 2, 1]
  gt         := ⟨((List.range 65).map fun r =>
                  if r = 0 then Vector.replicate 6 0#16
                  else #v[BitVec.ofNat 16 (32 * r + 256), BitVec.ofNat 16 (32 * r + 512),
                          BitVec.ofNat 16 (32 * r + 768), BitVec.ofNat 16 (32 * r + 1024),
                          BitVec.ofNat 16 (32 * r + 1280), BitVec.ofNat 16 (32 * r + 1536)]).toArray, by simp⟩
  apGain     := 2867#16
  ceil       := 1
  rampStep   := 1 / 2
  rampEps    := 1 / 16
  sampleFrac := 16
  drySrc     := .raw
  numChoice  := .exact
  curve      := .test

theorem Cfg.cfgT_wf : Cfg.cfgT.wf = true := by decide +kernel

/-- A configuration a machine may be built from: rule R10's admission conditions hold of it. Its capacities are
not asked to be powers of two, so that INIT can find one that is not (rule R231). -/
abbrev BoundCfg := { c : Cfg // c.admitted = true }

/-- The configuration the host bound (rule R252): open, known to be admitted and nothing more. -/
opaque Config.bind [Inhabited BoundCfg] : BoundCfg

/-- The bound configuration. The argument of `bind` only shows that admitted configurations exist; the constant
has no body, so no proof learns any value of it. -/
def Config.bound : BoundCfg := @Config.bind ⟨⟨Cfg.cfgT, by decide +kernel⟩⟩

/-- An implementation's numerics for the configuration `c`: lawful where the ramp step is admitted. -/
abbrev ImplNumerics (c : Cfg) := { n : Numerics // 0 < c.rampStep → c.rampStep ≤ 1 → n.Lawful c }

/-- An implementation's numerics: open, the laws of rule R191 and nothing more. -/
opaque Config.openNumerics [∀ c, Inhabited (ImplNumerics c)] (c : Cfg) : ImplNumerics c

/-- The open numerics of a configuration; the argument only shows that lawful numerics exist. -/
def Config.implNumerics (c : Cfg) : ImplNumerics c :=
  @Config.openNumerics (fun c => ⟨⟨Numerics.exact c.sampleFrac, Numerics.exact_lawful c⟩⟩) c

/-- An implementation's limiter curve for the configuration `c`: lawful at a positive ceiling. -/
abbrev ImplCurve (c : Cfg) := { f : Amplitude → Amplitude → Amplitude // 0 < c.ceil → CurveLawful f c.ceil }

/-- An implementation's limiter curve: open, the laws of rule R177 and nothing more. -/
opaque Config.openCurve [∀ c, Inhabited (ImplCurve c)] (c : Cfg) : ImplCurve c

/-- The open curve of a configuration; the argument only shows that a lawful curve exists. -/
def Config.implCurve (c : Cfg) : ImplCurve c :=
  @Config.openCurve (fun c => ⟨⟨testCurve, testCurve_lawful c.ceil⟩⟩) c

/-- The free value: the n-th input sample that a PROC outside the contract range takes, any signed 32-bit
integer (rules R202, R234; spec/93_implementation_defined.md U2). No body: nothing constrains it. -/
opaque Config.freeSample : Nat → Word

/-- The numerics record NUM that a configuration binds (rule R190). -/
def Cfg.num (c : Cfg) : Numerics :=
  match c.numChoice with
  | .impl  => (Config.implNumerics c).1
  | .exact => Numerics.exact c.sampleFrac

/-- The limiter curve `softclip` that a configuration binds (rule R175). -/
def Cfg.softclip (c : Cfg) : Amplitude → Amplitude → Amplitude :=
  match c.curve with
  | .impl => (Config.implCurve c).1
  | .test => testCurve

/-- The fixed field of NUM: `floorQ12(d) = floor(4096 × d)` (rule R190). -/
def floorQ12 (d : Amplitude) : Int := (4096 * d).floor

/-- The numerics of a configuration with an admitted ramp step meet the laws N1 to N7 (rule R191). -/
theorem Cfg.num_lawful (c : Cfg) (h0 : 0 < c.rampStep) (h1 : c.rampStep ≤ 1) : c.num.Lawful c := by
  unfold Cfg.num
  split
  · exact (Config.implNumerics c).2 h0 h1
  · exact Numerics.exact_lawful c h0 h1

/-- The curve of a configuration with a positive ceiling meets the laws SC1 to SC3 (rule R177). -/
theorem Cfg.softclip_lawful (c : Cfg) (h : 0 < c.ceil) : CurveLawful c.softclip c.ceil := by
  unfold Cfg.softclip
  split
  · exact (Config.implCurve c).2 h
  · exact testCurve_lawful c.ceil h

end Sys2Proof
end

