-- ==== Sys2Proof/Syntax.lean ====
section
/-!
DEFINITION. The commands of the block as syntax: one constructor per row of spec/opcode_table.json (rule R86).
-/

namespace Sys2Proof

/-- What stands on the data port DIN beside a command word (rules R80, R84).
The spec takes an amplitude as a rational number already decoded; `notFinite` is every pattern of the open
format AMP_FMT that is no finite number (spec/93_implementation_defined.md U3). -/
inductive Din where
  | finite (q : Amplitude)
  | notFinite
  deriving DecidableEq, Repr

/-- The commands of the block, with the operands the opcode table gives them (rules R83, R86). -/
inductive Instr where
  /-- INIT, format N: no operand (rule R210). -/
  | init
  /-- PROC, format S: the input amplitude of one frame (rule R200). -/
  | proc (input : Din)
  /-- PARAM time, format P (rule R212). -/
  | paramTime (v : Din)
  /-- PARAM depth, format P (rule R214). -/
  | paramDepth (v : Din)
  /-- PARAM mix, format P (rule R216). -/
  | paramMix (v : Din)
  /-- PARAM #n, format P, for the unrecognised indices 3..255 (rule R218). -/
  | paramOther (n : BitVec 8) (v : Din)
  /-- RESUME, format N: no operand (rule R220). -/
  | resume
  deriving DecidableEq, Repr

end Sys2Proof
end

