-- ==== Sys2Proof/WellFormed.lean ====
section
/-!
DEFINITION. Which terms of `Instr` are commands of the block.
-/

namespace Sys2Proof

/-- The one check on a command: the row PARAM #n stands for the indices 3..255 only, because 0, 1 and 2
are the rows PARAM time, depth and mix (rules R86, R89). -/
def Instr.wellFormed : Instr → Bool
  | .paramOther n _ => 3 ≤ n.toNat
  | .init | .proc _ | .paramTime _ | .paramDepth _ | .paramMix _ | .resume => true

/-- `wellFormed` as a proposition. -/
abbrev Instr.WellFormed (i : Instr) : Prop := i.wellFormed = true

end Sys2Proof
end

