-- ==== Sys2Proof/Decode.lean ====
section
/-!
DEFINITION. The command word: fields, the opcode map, decoder and encoder (rules R83, R84, R86, R87, R89).
-/

namespace Sys2Proof

/-- What the host presents on the command port: a 10-bit command word and the data port (rule R80). -/
structure Command where
  cw  : BitVec 10
  din : Din
  deriving DecidableEq, Repr

/-- The parameter index `CW[7:0]`, unsigned (rules R83, R84). -/
def idxOf (cw : BitVec 10) : BitVec 8 := cw.extractLsb' 0 8

/-- The operation field `CW[9:8]` (rule R83). -/
def opOf (cw : BitVec 10) : BitVec 2 := cw.extractLsb' 8 2

/-- One row of the opcode map: a command word `w` selects it when `w AND mask = pattern` (rule R86). -/
structure Row where
  pattern : BitVec 10
  mask    : BitVec 10
  deriving DecidableEq, Repr

/-- Whether a command word selects a row of the opcode map (rule R86). -/
def Row.selects (r : Row) (cw : BitVec 10) : Bool := cw &&& r.mask == r.pattern

/-- INIT: `00iiiiiiii` (rule R86). -/
def rowInit : Row := ⟨0x000#10, 0x300#10⟩
/-- PROC: `01iiiiiiii` (rule R86). -/
def rowProc : Row := ⟨0x100#10, 0x300#10⟩
/-- PARAM time: `1000000000` (rule R86). -/
def rowParamTime : Row := ⟨0x200#10, 0x3FF#10⟩
/-- PARAM depth: `1000000001` (rule R86). -/
def rowParamDepth : Row := ⟨0x201#10, 0x3FF#10⟩
/-- PARAM mix: `1000000010` (rule R86). -/
def rowParamMix : Row := ⟨0x202#10, 0x3FF#10⟩
/-- PARAM #n: `10nnnnnnnn`, tested after the three exact PARAM rows (rule R86). -/
def rowParamOther : Row := ⟨0x200#10, 0x300#10⟩
/-- RESUME: `11iiiiiiii` (rule R86). -/
def rowResume : Row := ⟨0x300#10, 0x300#10⟩

/-- The decoder: the rows of the opcode map in the order of rule R86, the three exact PARAM rows before
PARAM #n. The word that none of the first six rows selects has `op = 11` and is RESUME; no command word is
illegal (rule R87). The `idx` field of INIT, PROC and RESUME is ignored. -/
def decode (c : Command) : Instr :=
  if rowInit.selects c.cw then .init
  else if rowProc.selects c.cw then .proc c.din
  else if rowParamTime.selects c.cw then .paramTime c.din
  else if rowParamDepth.selects c.cw then .paramDepth c.din
  else if rowParamMix.selects c.cw then .paramMix c.din
  else if rowParamOther.selects c.cw then .paramOther (idxOf c.cw) c.din
  else .resume

/-- Why a number is no command word. -/
inductive DecodeError where
  /-- The number needs more than the ten bits of the command port (rule R83). -/
  | notTenBits (w : Nat)
  deriving DecidableEq, Repr

/-- The command port reads a number given from outside as a command word, or rejects it by name. -/
def commandOf (w : Nat) (din : Din) : Except DecodeError Command :=
  if w < 1024 then .ok ⟨BitVec.ofNat 10 w, din⟩ else .error (.notTenBits w)

/-- The decoder on any number: total, rejecting by name what does not fit the port. -/
def decodeNumber (w : Nat) (din : Din) : Except DecodeError Instr :=
  match commandOf w din with
  | .ok c    => .ok (decode c)
  | .error e => .error e

/-- The instruction that the decoder reads from the bits `w` of a row of spec/opcode_table.json.
The table gives DIN no bits, so DIN is an operand of zeros: the amplitude 0. -/
def decodeTableWord (_nbits w : Nat) : Option Instr :=
  match decodeNumber w (.finite 0) with
  | .ok i    => some i
  | .error _ => none

/-- The encoder: the pair (CW, DIN) of rule R89, an ignored `idx` written as zero (rule R87).
INIT and RESUME use no operand, so their DIN is written as the amplitude 0. -/
def encode : Instr → Command
  | .init           => ⟨0x000#10, .finite 0⟩
  | .proc d         => ⟨0x100#10, d⟩
  | .paramTime v    => ⟨0x200#10, v⟩
  | .paramDepth v   => ⟨0x201#10, v⟩
  | .paramMix v     => ⟨0x202#10, v⟩
  | .paramOther n v => ⟨0x200#10 + n.setWidth 10, v⟩
  | .resume         => ⟨0x300#10, .finite 0⟩

end Sys2Proof
end

