-- ==== Sys2Proof/Machine/State.lean ====
section
/-!
DEFINITION. The state of the block as plain data, its response port, its command port, and the state after
power-on reset (rules R30 to R46, R80).
-/

namespace Sys2Proof.Machine

/-- The bytes of one delay memory: pairs of a byte address and a byte, addresses strictly rising, no byte 0.
Word `k` of the memory stands at the byte addresses `4k .. 4k+3`, lowest byte first (rule R62).
A byte that is not listed is 0 (rules R66, R106). -/
abbrev Memory := List Host.Cell

/-- The canonical form from an address on: addresses strictly rising and no entry equal to what an unlisted
address reads as. -/
def Memory.wfFrom : Nat → Memory → Bool
  | _, []            => true
  | lo, (a, v) :: m => decide (lo ≤ a) && decide (v ≠ 0) && Memory.wfFrom (a + 1) m

/-- The canonical form of a memory. -/
def Memory.wf (m : Memory) : Bool := Memory.wfFrom 0 m

/-- A Delay Buffer without its capacity, which is a constant of the configuration (rules R31, R32, R34, R35). -/
structure DelayBuffer where
  /-- `MEM[b]`, the delay memory. -/
  mem  : Memory
  /-- `CUR[b]`, the write cursor: names the word written last. -/
  cur  : Nat
  /-- `GAIN[b]`, the feedback gain. -/
  gain : Coef
  deriving DecidableEq, Repr, Inhabited

/-- STATUS of a response (rule R80). `refused` is NotInitialized, the only refusal of rule R230. -/
inductive Status where
  | done
  | refused
  /-- ConfigFatal, with the first offending slot (rules R230, R231). -/
  | fault (b : Slot)
  deriving DecidableEq, Repr

/-- The two output amplitudes of a frame (rule R80). -/
structure Outputs where
  outL : Amplitude
  outR : Amplitude
  deriving DecidableEq, Repr

/-- A response: STATUS, and the outputs where a PROC ended `done`; no other response carries a value on OUTL
and OUTR (rules R80, R232). -/
structure Response where
  status : Status
  out    : Option Outputs
  deriving DecidableEq, Repr

/-- The state: what rules R30 to R43 give the block, the two ports of rule R80, the configuration it was built
from, and one field of the model's own. -/
@[ext]
structure State where
  /-- The configuration the host bound (rules R49, R252): constant, written by no command. -/
  cfg       : Cfg
  /-- The ten Delay Buffers. -/
  buf       : Bank DelayBuffer
  /-- `TIME`, the normalized time control (rule R37). -/
  time      : Amplitude
  /-- `TIDX`, the time index 0..64 (rule R41). -/
  tidx      : Fin 65
  /-- `DEPTH`, the normalized depth control (rule R38). -/
  depth     : Amplitude
  /-- `MIX`, the wet/dry balance after the dead-zone remap (rule R39). -/
  mix       : Amplitude
  /-- `RAMP`, the input-gain ramp (rule R40). -/
  ramp      : Amplitude
  /-- `INITED` (rule R42). -/
  inited    : Bool
  /-- `FAULT`, sticky (rule R43). -/
  fault     : Bool
  /-- The command port: the commands the host presents, oldest first; the block takes one at a time (rules R80, R81). -/
  pending   : List Command
  /-- The response port: the response to the last command, none before the first (rule R80). -/
  resp      : Option Response
  /-- The model's own: how many free input samples have been taken (`Config.freeSample`). -/
  freeCount : Nat
  deriving DecidableEq, Repr

/-- Why the machine can stop with a fault: never. The one fault of the spec, ConfigFatal, has its effect given
by rule R231 (FAULT is set, STATUS reports it, the block waits for the next command) and is a next state. -/
inductive Fault where
  deriving DecidableEq, Repr

/-- Why the model has no step for a command. -/
inductive Refusal where
  /-- An instruction without a meaning, named by its mnemonic; raised by no arm of this model. Safe. -/
  | notModelled (mnemonic : String)
  /-- Raised by PROC and by PARAM time, depth and mix when the block is ready to run them and DIN holds no finite
  number: the spec puts such a command outside the interface contract and gives it no step (rules R84, R234;
  spec/93_implementation_defined.md U3). Safe. -/
  | operandNotFinite
  deriving DecidableEq, Repr

/-- Power-on reset: INITED = 0 and FAULT = 0 (rules R46, R250). The spec gives no other register a value before
INIT; the model holds 0 there (notes/assumptions/3.md), and no command but INIT reads past the two flags. No
command has been presented and no response given. -/
def State.reset : State where
  cfg       := Config.bound.1
  buf       := ⟨Vector.replicate 6 ⟨[], 0, 0⟩, Vector.replicate 4 ⟨[], 0, 0⟩⟩
  time      := 0
  tidx      := 0
  depth     := 0
  mix       := 0
  ramp      := 0
  inited    := false
  fault     := false
  pending   := []
  resp      := none
  freeCount := 0

end Sys2Proof.Machine
end

