-- ==== Sys2Proof/Machine/Ops.lean ====
section
/-!
DEFINITION. The named operations: integer arithmetic, byte and word access to a delay memory, the three Delay
Buffer operations, and the ways a command ends (rules R11, R12, R14, R61 to R64, R100 to R112, R231, R232).
-/

namespace Sys2Proof.Machine

/-! ## Integers -/

/-- `v >>a n`, the arithmetic right shift: `floor(v / 2^n)` for every integer (rule R11). -/
def asr (v : Int) (n : Nat) : Int := v / 2 ^ n

/-- `wrap_N(v)` for N = 32: the signed reading of the low 32 bits (rule R11). -/
def wrap32 (v : Int) : Int := (BitVec.ofInt 32 v).toInt

/-- A sample or accumulator scaled by a coefficient: `(v × g) >>a 12`, the product exact (rules R12, R17). -/
def scaleQ12 (v g : Int) : Int := asr (v * g) 12

/-! ## Bytes of a delay memory -/

/-- The byte at an address; an unlisted byte is 0. -/
def Memory.byteAt : Memory → Nat → Byte
  | [], _           => 0
  | (k, v) :: m, a => if k = a then v else Memory.byteAt m a

/-- A byte in front of a memory, left out when it is 0: the canonical form lists no byte 0. -/
def Memory.consByte (a : Nat) (v : Byte) (m : Memory) : Memory := if v = 0 then m else (a, v) :: m

/-- Replace the byte at an address, keeping the canonical form. -/
def Memory.setByte : Memory → Nat → Byte → Memory
  | [], a, v          => Memory.consByte a v []
  | (k, w) :: m, a, v =>
    if a < k then Memory.consByte a v ((k, w) :: m)
    else if a = k then Memory.consByte a v m
    else (k, w) :: Memory.setByte m a v

/-! ## Words of a delay memory: the only access width (rule R61), lowest byte first (rule R62) -/

/-- The word at word index `k`. -/
def Memory.wordAt (m : Memory) (k : Nat) : Word :=
  m.byteAt (4 * k + 3) ++ m.byteAt (4 * k + 2) ++ m.byteAt (4 * k + 1) ++ m.byteAt (4 * k)

/-- Replace the word at word index `k`. -/
def Memory.setWord (m : Memory) (k : Nat) (w : Word) : Memory :=
  (((m.setByte (4 * k) (w.extractLsb' 0 8)).setByte (4 * k + 1) (w.extractLsb' 8 8)).setByte
    (4 * k + 2) (w.extractLsb' 16 8)).setByte (4 * k + 3) (w.extractLsb' 24 8)

/-- `MemRead((b,k), 32)`: the word as a signed integer (rules R14, R61). -/
def Memory.read (m : Memory) (k : Nat) : Int := (m.wordAt k).toInt

/-- `MemWrite((b,k), 32, v)`: the word becomes `wrap_32(v)` (rules R14, R61). -/
def Memory.write (m : Memory) (k : Nat) (v : Int) : Memory := m.setWord k (BitVec.ofInt 32 v)

/-! ## One Delay Buffer, a function of its capacity, cursor and memory (rule R112) -/

/-- `MASK[b]` (rule R35). -/
def maskOf (cap : Nat) : Nat := cap - 1

/-- The effective word index `EA(b,d) = (CUR[b] + d) AND MASK[b]` (rule R64). -/
def DelayBuffer.index (cap : Nat) (k : DelayBuffer) (d : Nat) : Nat := (k.cur + d) &&& maskOf cap

/-- DB.READ(b, d): the sample `d` steps behind the cursor (rule R102). -/
def DelayBuffer.read (cap : Nat) (k : DelayBuffer) (d : Nat) : Int := k.mem.read (k.index cap d)

/-- The cursor one step back, `(CUR[b] - 1) AND MASK[b]`: 0 becomes `CAP[b] - 1` (rule R104). -/
def cursorBack (cap cur : Nat) : Nat := if cur = 0 then maskOf cap else (cur - 1) &&& maskOf cap

/-- DB.ADVWR(b, v): the cursor moves one step back and `wrap_32(v)` is stored there (rule R104). -/
def DelayBuffer.advWrite (cap : Nat) (k : DelayBuffer) (v : Int) : DelayBuffer :=
  { k with cur := cursorBack cap k.cur, mem := k.mem.write (cursorBack cap k.cur) v }

/-- DB.RESET(b): every word 0 and the cursor 0, the gain untouched (rule R106). The memory whose every word is 0
is the one that lists nothing. -/
def DelayBuffer.reset (k : DelayBuffer) : DelayBuffer := { k with mem := [], cur := 0 }

/-! ## The ten Delay Buffers of the state -/

/-- `CAP[b]` (rule R35). -/
def State.cap (s : State) (b : Slot) : Nat := s.cfg.cap.get b

/-- The Delay Buffer in a slot. -/
def State.buffer (s : State) (b : Slot) : DelayBuffer := s.buf.get b

/-- The state with the Delay Buffer of one slot replaced. -/
def State.setBuffer (s : State) (b : Slot) (k : DelayBuffer) : State := { s with buf := s.buf.set b k }

/-- `GAIN[b]` as an integer (rule R34). -/
def State.gain (s : State) (b : Slot) : Int := (s.buffer b).gain.toInt

/-- `GAIN[b] <- g` (rule R34). -/
def State.setGain (s : State) (b : Slot) (g : Coef) : State := s.setBuffer b { s.buffer b with gain := g }

/-- DB.READ(b, d) (rule R102). -/
def State.dbRead (s : State) (b : Slot) (d : Nat) : Int := (s.buffer b).read (s.cap b) d

/-- DB.ADVWR(b, v) (rule R104). -/
def State.dbAdvWr (s : State) (b : Slot) (v : Int) : State := s.setBuffer b ((s.buffer b).advWrite (s.cap b) v)

/-- DB.RESET(b) (rule R106). -/
def State.dbReset (s : State) (b : Slot) : State := s.setBuffer b (s.buffer b).reset

/-- DB.RESET on all ten buffers, as INIT and RESUME run it (rules R106, R210, R220). -/
def State.dbResetAll (s : State) : State := Slot.all.foldl State.dbReset s

/-! ## How a command ends -/

/-- The end `STATUS = done` of a command other than PROC (rule R80). -/
def State.endDone (s : State) : State := { s with resp := some ⟨.done, none⟩ }

/-- The end `STATUS = done` of a PROC, with its two outputs (rules R80, R200). -/
def State.endFrame (s : State) (o : Outputs) : State := { s with resp := some ⟨.done, some o⟩ }

/-- Taking the fault ConfigFatal(b): FAULT is set, STATUS reports the slot, nothing else is written, and the block
waits for the next command (rules R231, R242). -/
def State.raiseConfigFatal (s : State) (b : Slot) : State :=
  { s with fault := true, resp := some ⟨.fault b, none⟩ }

/-- Taking the refusal NotInitialized: STATUS reports it and no state is written; there is nothing to return from,
the next command is judged afresh (rules R232, R244). -/
def State.refuseNotInitialized (s : State) : State := { s with resp := some ⟨.refused, none⟩ }

end Sys2Proof.Machine
end

