-- ==== Sys2Proof/Machine/Flags.lean ====
section
/-!
DEFINITION. The two flags: the tests a command makes of INITED and FAULT before anything else, and the codes of the
abnormal outcomes (rules R42, R43, R230, R238). The block has no arithmetic flags (rule R43).
-/

namespace Sys2Proof.Machine

/-- The test of PROC, PARAM and RESUME: such a command runs when FAULT = 0 and INITED = 1 (rules R232, R238). -/
def State.ready (s : State) : Bool := !s.fault && s.inited

/-- A command of the kind PROC, PARAM or RESUME: refused as NotInitialized unless the block is ready (rule R232). -/
def whenReady (s : State) (run : Host.Outcome State Fault Refusal) : Host.Outcome State Fault Refusal :=
  if s.ready then run else .next s.refuseNotInitialized

/-- The code of an abnormal outcome in the list of rule R230: 1 for ConfigFatal, 2 for NotInitialized. -/
def Status.code : Status → Option Nat
  | .done    => none
  | .fault _ => some 1
  | .refused => some 2

end Sys2Proof.Machine
end

