-- ==== Sys2Proof/Machine/Operands.lean ====
section
/-!
DEFINITION. The operand forms of the commands: the amplitude on DIN, and the parameter maps CLIP01 and MIX.REMAP
(rules R84, R196, R198).
-/

namespace Sys2Proof.Machine

/-- A command that takes the amplitude on DIN as its operand; the model has no step where DIN holds no finite number
(rules R84, R234). -/
def withAmplitude (d : Din) (run : Amplitude → Host.Outcome State Fault Refusal) :
    Host.Outcome State Fault Refusal :=
  match d with
  | .finite v  => run v
  | .notFinite => .refused .operandNotFinite

/-- CLIP01(v): clamp to [0,1] (rule R196). -/
def clip01 (v : Amplitude) : Amplitude := min 1 (max 0 v)

/-- MIX.REMAP(v): the dead-zone remap, the dead zone closed (rule R198). -/
def mixRemap (n : Numerics) (v : Amplitude) : Amplitude :=
  if v < 49 / 100 then n.rnd (v * (50 / 49))
  else if v ≤ 51 / 100 then 1 / 2
  else n.rnd (1 / 2 + (v - 51 / 100) * (50 / 49))

end Sys2Proof.Machine
end

