-- ==== Sys2Proof/Machine/AllPass.lean ====
section
/-!
DEFINITION. The All-Pass Chain: AP.STAGE, AP.CHAIN (rules R160 to R170).
-/

namespace Sys2Proof.Machine

/-- AP.STAGE(s, in_prev): the shift applies to the product alone, and `out` uses the `feed_in` that is not narrowed
(rules R162, R256). The first component is `out`. -/
def apStage (acc : Int × State) (i : Fin 4) : Int × State :=
  let s := acc.2
  let z := s.dbRead (.ap i) (s.cfg.apoff.get i)
  let feedIn := acc.1 + scaleQ12 z (s.gain (.ap i))
  (z - scaleQ12 feedIn (s.gain (.ap i)), s.dbAdvWr (.ap i) feedIn)

/-- AP.CHAIN(apin): the stages A0, A1, A2, A3 in series; the first component is `wetfix` (rule R164). -/
def apChain (apin : Int) (s : State) : Int × State := [0, 1, 2, 3].foldl apStage (apin, s)

end Sys2Proof.Machine
end

