-- ==== Sys2Proof/Machine/CombNetwork.lean ====
section
/-!
DEFINITION. The Comb Network and the depth hand-off: COMB.A, COMB.B, DEPTH.SCALE (rules R135 to R152).
-/

namespace Sys2Proof.Machine

/-- The accumulators of stage A: `sum1` and `sum[0..2]`, exact integers (rules R16, R44). -/
structure StageSums where
  sum1   : Int
  cross0 : Int
  cross1 : Int
  cross2 : Int
  deriving DecidableEq, Repr

/-- `sum[j]` (rule R140). -/
def StageSums.sum (t : StageSums) : Fin 3 → Int
  | 0 => t.cross0
  | 1 => t.cross1
  | 2 => t.cross2

/-- The stage-A slot Ci with i = k + 3 (rule R15). -/
def slotA (k : Fin 3) : Slot := .comb (k.natAdd 3)

/-- The stage-B slot Cj (rule R15). -/
def slotB (j : Fin 3) : Slot := .comb (j.castAdd 3)

/-- One slot of stage A: its pre-delay read into `sum1`, its three cross reads into `sum[0..2]`, then its write
(rule R140). -/
def combASlot (x : Int) (acc : StageSums × State) (k : Fin 3) : StageSums × State :=
  let s := acc.2
  let z := s.dbRead (slotA k) (s.cfg.pre.get (k.natAdd 3))
  let cross := fun j : Fin 3 => s.dbRead (slotA k) ((s.cfg.xoff.get k).get j)
  (⟨acc.1.sum1 + z, acc.1.cross0 + cross 0, acc.1.cross1 + cross 1, acc.1.cross2 + cross 2⟩,
   s.dbAdvWr (slotA k) (x + scaleQ12 z (s.gain (slotA k))))

/-- COMB.A(x): the slots C3, C4, C5 in ascending order, the accumulators from 0 (rules R135, R140). -/
def combA (x : Int) (s : State) : StageSums × State :=
  [0, 1, 2].foldl (combASlot x) (⟨0, 0, 0, 0⟩, s)

/-- One slot of stage B: the averaged input, its pre-delay read into `sum2`, then its write (rule R145). -/
def combBSlot (t : StageSums) (acc : Int × State) (j : Fin 3) : Int × State :=
  let s := acc.2
  let m := asr (t.sum1 + t.sum j) 2
  let z := s.dbRead (slotB j) (s.cfg.pre.get (j.castAdd 3))
  (acc.1 + z, s.dbAdvWr (slotB j) (m + scaleQ12 z (s.gain (slotB j))))

/-- COMB.B(sum1, sum[0..2]): the slots C0, C1, C2 in ascending order, `sum2` from 0 (rules R135, R145). -/
def combB (t : StageSums) (s : State) : Int × State := [0, 1, 2].foldl (combBSlot t) (0, s)

/-- DEPTH.SCALE(sum2): `(sum2 × floor(4096 × DEPTH)) >>a 12` (rule R150). -/
def depthScale (depth : Amplitude) (sum2 : Int) : Int := scaleQ12 sum2 (floorQ12 depth)

end Sys2Proof.Machine
end

