-- ==== Sys2Proof/Machine/SoftLimiter.lean ====
section
/-!
DEFINITION. The Soft Limiter: LIMIT (rules R175 to R182).
-/

namespace Sys2Proof.Machine

/-- `sgn(y)`: -1, 0 or +1 (rule R14). -/
def sgn (y : Amplitude) : Amplitude := if y < 0 then -1 else if y = 0 then 0 else 1

/-- LIMIT(c, y): the identity below the ceiling, else the sign times the compressed magnitude (rule R176). -/
def limit (cfg : Cfg) (c y : Amplitude) : Amplitude :=
  if |y| < c then y
  else sgn y * cfg.num.rnd (c + cfg.softclip c (cfg.num.rnd (|y| - c)))

end Sys2Proof.Machine
end

