-- ==== Sys2Proof/Machine/Engine.lean ====
section
/-!
DEFINITION. The Reverb Engine's unit operations IN.SCALE, MIX.OUT, DUP.OUT, RAMP.ADV, and one frame
(rules R200 to R208).
-/

namespace Sys2Proof.Machine

/-- The ramped input amplitude `a = rnd(in × RAMP)` (rule R202). -/
def rampedInput (input : Amplitude) (s : State) : Amplitude := s.cfg.num.rnd (input * s.ramp)

/-- The conversion of IN.SCALE: `x = toFix(a)` in the contract range, and any signed 32-bit integer, a free value,
outside it (rules R202, R234). -/
def sampleIn (a : Amplitude) (s : State) : Int × State :=
  if s.cfg.InContract a then (s.cfg.num.toFix a, s)
  else ((Config.freeSample s.freeCount).toInt, { s with freeCount := s.freeCount + 1 })

/-- MIX.OUT(in, a, wetfix) (rule R204). -/
def mixOut (cfg : Cfg) (mix input a : Amplitude) (wetfix : Int) : Amplitude :=
  let w := cfg.num.toAmp wetfix
  let dry := cfg.num.rnd (1 - mix)
  let d0 := match cfg.drySrc with
    | .raw    => input
    | .ramped => a
  cfg.num.rnd (cfg.num.rnd (dry * d0) + cfg.num.rnd (mix * w))

/-- DUP.OUT(o): the same value on both outputs (rule R206). -/
def dupOut (o : Amplitude) : Outputs := ⟨o, o⟩

/-- RAMP.ADV on the ramp value: one update toward 1, snapping to 1 when the distance falls below RAMP_EPS
(rule R208). -/
def rampNext (cfg : Cfg) (r : Amplitude) : Amplitude :=
  if r = 1 then 1
  else if cfg.num.rnd (1 - cfg.num.rampUpdate cfg.rampStep r) < cfg.rampEps then 1
  else cfg.num.rampUpdate cfg.rampStep r

/-- RAMP.ADV (rule R208). -/
def rampAdv (s : State) : State := { s with ramp := rampNext s.cfg s.ramp }

/-- Step 2 of a frame: the two comb stages, stage A first (rules R200, R256). -/
def combStages (x : Int) (s : State) : Int × State := combB (combA x s).1 (combA x s).2

/-- Steps 3 and 4 of a frame, from `sum2` and the state after the comb stages (rule R200). -/
def diffuse (cb : Int × State) : Int × State := apChain (depthScale cb.2.depth cb.1) cb.2

/-- Steps 5 to 8 of a frame, from `wetfix` and the state after the chain (rule R200). -/
def emit (input a : Amplitude) (ap : Int × State) : State :=
  rampAdv (ap.2.endFrame (dupOut (limit ap.2.cfg ap.2.cfg.ceil (mixOut ap.2.cfg ap.2.mix input a ap.1))))

/-- One frame: the eight steps of rule R200 in their order (rule R256). -/
def frame (input : Amplitude) (s : State) : State :=
  let a := rampedInput input s
  let p := sampleIn a s
  emit input a (diffuse (combStages p.1 p.2))

end Sys2Proof.Machine
end

