-- ==== Sys2Proof/Machine/GainTable.lean ====
section
/-!
DEFINITION. The Gain Table: GT.INDEX, GT.ROW, GAIN.LOAD (rules R120 to R130).
-/

namespace Sys2Proof.Machine

/-- `min(64, max(0, floor(64 × t)))`, the product exact (rules R122, R193). -/
def gtIndexInt (t : Amplitude) : Int := min 64 (max 0 (64 * t).floor)

/-- GT.INDEX(t) as a row number 0..64 (rule R122). -/
def gtIndex (t : Amplitude) : Fin 65 := Fin.ofNat 65 (gtIndexInt t).toNat

/-- GT.ROW(r): the six coefficients of a row (rule R124). -/
def gtRow (c : Cfg) (r : Fin 65) : Vector Coef 6 := c.gt.get r

/-- The row that slot `Ci` is loaded from: EARLY_ROW for i in 0..2, the row of TIDX for i in 3..5 (rule R126). -/
def gainRow (i : Fin 6) (tidx : Fin 65) : Fin 65 := if i.val < 3 then 1 else tidx

/-- `GAIN[Ci] <- GT[row][i]`, column i for slot i (rules R125, R126). -/
def gainLoadSlot (s : State) (i : Fin 6) : State :=
  s.setGain (.comb i) ((gtRow s.cfg (gainRow i s.tidx)).get i)

/-- GAIN.LOAD: the six comb gain registers from the table (rule R126). -/
def gainLoad (s : State) : State := [0, 1, 2, 3, 4, 5].foldl gainLoadSlot s

end Sys2Proof.Machine
end

