-- ==== Sys2Proof/Machine/Commands.lean ====
section
/-!
DEFINITION. The meanings of the commands INIT, PROC, PARAM and RESUME, one definition for each constructor of `Instr`
(rules R200, R210 to R220).
-/

namespace Sys2Proof.Machine

/-! ## Writes of the parameter registers and flags -/

/-- `TIME <- t` and `TIDX <- GT.INDEX(TIME)`, always together (rules R37, R41). -/
def State.writeTime (s : State) (t : Amplitude) : State := { s with time := t, tidx := gtIndex t }

/-- `DEPTH <- d` (rule R38). -/
def State.writeDepth (s : State) (d : Amplitude) : State := { s with depth := d }

/-- `MIX <- m` (rule R39). -/
def State.writeMix (s : State) (m : Amplitude) : State := { s with mix := m }

/-- `RAMP <- r` (rule R40). -/
def State.writeRamp (s : State) (r : Amplitude) : State := { s with ramp := r }

/-- `INITED <- 1` (rule R42). -/
def State.markInited (s : State) : State := { s with inited := true }

/-- `GAIN[As] <- AP_GAIN` for s in 0..3 (rules R130, R210). -/
def loadApGains (s : State) : State := [0, 1, 2, 3].foldl (fun s i => s.setGain (.ap i) s.cfg.apGain) s

/-! ## The commands -/

/-- The registers INIT writes after the capacities have passed: memories and cursors, the default parameters and the
ramp, the gains, INITED (rule R210). -/
def initRegisters (s : State) : State :=
  (loadApGains (gainLoad ((((s.dbResetAll.writeTime 0).writeDepth 0).writeMix (1 / 2)).writeRamp 0))).markInited

/-- INIT: refused when FAULT = 1; else ConfigFatal at the first slot whose capacity is no power of two, before any
other write; else the whole block is initialised (rules R210, R231, R238). -/
def execInit (s : State) : Host.Outcome State Fault Refusal :=
  .next (
    if s.fault then s.refuseNotInitialized
    else match s.cfg.firstOffender with
      | some b => s.raiseConfigFatal b
      | none   => (initRegisters s).endDone)

/-- PROC: one frame (rule R200). -/
def execProc (input : Din) (s : State) : Host.Outcome State Fault Refusal :=
  whenReady s (withAmplitude input fun v => .next (frame v s))

/-- The registers PARAM time writes: TIME clipped, TIDX, and the comb gains (rule R212). -/
def setTime (v : Amplitude) (s : State) : State :=
  gainLoad (s.writeTime (clip01 v))

/-- PARAM time (rule R212). -/
def execParamTime (v : Din) (s : State) : Host.Outcome State Fault Refusal :=
  whenReady s (withAmplitude v fun q => .next (setTime q s).endDone)

/-- PARAM depth: DEPTH clipped (rule R214). -/
def execParamDepth (v : Din) (s : State) : Host.Outcome State Fault Refusal :=
  whenReady s (withAmplitude v fun q => .next (s.writeDepth (clip01 q)).endDone)

/-- PARAM mix: MIX clipped, then remapped (rule R216). -/
def execParamMix (v : Din) (s : State) : Host.Outcome State Fault Refusal :=
  whenReady s (withAmplitude v fun q => .next (s.writeMix (mixRemap s.cfg.num (clip01 q))).endDone)

/-- PARAM #n with an unrecognised index: nothing is written and DIN is not examined (rules R87, R218). -/
def execParamOther (_n : BitVec 8) (_v : Din) (s : State) : Host.Outcome State Fault Refusal :=
  whenReady s (.next s.endDone)

/-- RESUME: every Delay Buffer cleared and the ramp restarted (rule R220). -/
def execResume (s : State) : Host.Outcome State Fault Refusal :=
  whenReady s (.next (s.dbResetAll.writeRamp 0).endDone)

end Sys2Proof.Machine
end

