-- ==== Sys2Proof/Machine/Dispatch.lean ====
section
/-!
DEFINITION. The dispatch of a command to its meaning: one arm for each constructor of `Instr`.
-/

namespace Sys2Proof.Machine

def exec (i : Instr) (s : State) : Host.Outcome State Fault Refusal :=
  match i with
  | .init => Sys2Proof.Machine.execInit s
  | .proc input => Sys2Proof.Machine.execProc input s
  | .paramTime v => Sys2Proof.Machine.execParamTime v s
  | .paramDepth v => Sys2Proof.Machine.execParamDepth v s
  | .paramMix v => Sys2Proof.Machine.execParamMix v s
  | .paramOther n v => Sys2Proof.Machine.execParamOther n v s
  | .resume => Sys2Proof.Machine.execResume s

end Sys2Proof.Machine
end

