-- ==== Sys2Proof/Machine/Port.lean ====
section
/-!
DEFINITION. The command port: which command the block accepts next, and how a command is presented (rules R80, R81).
-/

namespace Sys2Proof.Machine

/-- The command the block accepts next, and the state once it has left the port (rule R81). -/
def State.accept (s : State) : Option (Command × State) :=
  match s.pending with
  | []      => none
  | c :: cs => some (c, { s with pending := cs })

/-- The host presents a command before the ones already waiting. -/
def State.present (s : State) (c : Command) : State := { s with pending := c :: s.pending }

end Sys2Proof.Machine
end

