-- ==== Sys2Proof/Machine/Step.lean ====
section
/-!
DEFINITION. One step of the machine: one command, run to its end (rules R81, R266).
-/

namespace Sys2Proof.Machine

/-- One step: the block accepts the oldest command on its port, decodes it and runs it whole. With no command on the
port it waits, unchanged (rules R81, R242). -/
def step (s : State) : Host.Outcome State Fault Refusal :=
  match s.accept with
  | none         => .next s
  | some (c, s') => exec (decode c) s'

/-- The state with the command of an opcode-table row presented as the next one. A number that is no command word
cannot stand on the port, and the state is then unchanged. -/
def State.withFetchWord (s : State) (_nbits w : Nat) : State :=
  match commandOf w (.finite 0) with
  | .ok c    => s.present c
  | .error _ => s

end Sys2Proof.Machine
end

