-- ==== Sys2Proof/Safety.lean ====
section
/-!
DEFINITION. What counts as a good state of the block: the invariants of rule R45 once INITED = 1, the flags of rule R232,
and the canonical form of every delay memory; and what rule R268 asks of a command.
-/

namespace Sys2Proof.Machine

/-- Every listed byte of a memory lies below an address: the memory is no longer than its array (rule R31). -/
def Memory.within (m : Memory) (n : Nat) : Bool := m.all fun c => decide (c.1 < n)

/-- An amplitude lies in [0,1]. -/
abbrev InUnit (q : Amplitude) : Prop := 0 ≤ q ∧ q ≤ 1

/-- The invariants of an initialised block (rule R45), with the array bounds of rule R31 and, for RAMP, that it is a
representable value of the numerics (law N5 of rule R191). -/
structure State.RegistersOk (s : State) : Prop where
  /-- (I-CUR) -/
  cursor    : ∀ b, (s.buffer b).cur < s.cap b
  /-- Rule R31: the array of slot b has CAP[b] words. -/
  within    : ∀ b, (s.buffer b).mem.within (4 * s.cap b) = true
  /-- (I-PAR) -/
  time      : InUnit s.time
  depth     : InUnit s.depth
  mix       : InUnit s.mix
  ramp      : InUnit s.ramp
  rampKept  : s.cfg.num.rnd s.ramp = s.ramp
  /-- (I-TIDX) -/
  tidx      : s.tidx = gtIndex s.time
  /-- (I-GAIN) -/
  gainEarly : ∀ j : Fin 3, (s.buffer (slotB j)).gain = (s.cfg.gt.get 1).get (j.castAdd 3)
  gainLate  : ∀ k : Fin 3, (s.buffer (slotA k)).gain = (s.cfg.gt.get s.tidx).get (k.natAdd 3)
  gainAp    : ∀ i : Fin 4, (s.buffer (.ap i)).gain = s.cfg.apGain

/-- The invariant of the machine. -/
structure State.Inv (s : State) : Prop where
  /-- The configuration is one a machine is built from (rule R10). -/
  admitted  : s.cfg.admitted = true
  /-- Every delay memory is in its canonical form. -/
  canonical : ∀ b, (s.buffer b).mem.wf = true
  /-- FAULT = 1 implies INITED = 0 (rule R232). -/
  flags     : s.fault = true → s.inited = false
  /-- INIT has checked the capacities (rules R110, R231). -/
  caps      : s.inited = true → s.cfg.capsOk = true
  /-- Rule R45. -/
  registers : s.inited = true → s.RegistersOk
  /-- OUTL = OUTR in every response that carries outputs, and only a `done` response carries them (rules R80, R206). -/
  outputs   : ∀ r o, s.resp = some r → r.out = some o → r.status = .done ∧ o.outL = o.outR

end Sys2Proof.Machine

namespace Sys2Proof

/-- The part of premise P-CONTRACT that the model's steps ask for: DIN holds a finite amplitude (rule R268). -/
def Command.hasFiniteDin (c : Command) : Bool := c.din != .notFinite

end Sys2Proof
end

