-- ==== Sys2Proof/Certificates/Slice0/Obligations.lean ====
section
/-!
DEFINITION. The statements about the model, each a proposition of its own; nothing is proved here.
-/

open Sys2Proof Sys2Proof.Machine

/-! ## Encoding and the step -/

/-- Command words written out from the opcode map of rule R86 and the decode vectors of spec/95_test_vectors.md 3.8. -/
def Obligations.TableWordsDecode : Prop :=
  decode ⟨0b0000000000#10, .finite 0⟩ = .init ∧
  decode ⟨0b0010101011#10, .finite 5⟩ = .init ∧
  decode ⟨0b0100000000#10, .finite (1 / 2)⟩ = .proc (.finite (1 / 2)) ∧
  decode ⟨0b0111111111#10, .notFinite⟩ = .proc .notFinite ∧
  decode ⟨0b1000000000#10, .finite 1⟩ = .paramTime (.finite 1) ∧
  decode ⟨0b1000000001#10, .finite 1⟩ = .paramDepth (.finite 1) ∧
  decode ⟨0b1000000010#10, .finite 1⟩ = .paramMix (.finite 1) ∧
  decode ⟨0b1000000011#10, .finite 1⟩ = .paramOther 3#8 (.finite 1) ∧
  decode ⟨0b1011111111#10, .finite 1⟩ = .paramOther 255#8 (.finite 1) ∧
  decode ⟨0b1100000000#10, .finite 0⟩ = .resume ∧
  decode ⟨0b1111111111#10, .notFinite⟩ = .resume

/-- Decoding an encoded well-formed command gives it back, with every operand (rules R86, R89). -/
def Obligations.DecodeEncodeRoundTrip : Prop :=
  ∀ i : Instr, i.WellFormed → decode (encode i) = i

/-- The opcode map of rule R86: each row's words decode to the row's command with its operands, the rows taken with the
constraint `idx >= 3` of PARAM #n, and every one of the 1024 words selects exactly one row. -/
def Obligations.DecodeFollowsOpcodeMap : Prop :=
  ∀ c : Command,
    (c.cw &&& 0x300#10 = 0x000#10 → decode c = .init) ∧
    (c.cw &&& 0x300#10 = 0x100#10 → decode c = .proc c.din) ∧
    (c.cw &&& 0x3FF#10 = 0x200#10 → decode c = .paramTime c.din) ∧
    (c.cw &&& 0x3FF#10 = 0x201#10 → decode c = .paramDepth c.din) ∧
    (c.cw &&& 0x3FF#10 = 0x202#10 → decode c = .paramMix c.din) ∧
    (c.cw &&& 0x300#10 = 0x200#10 → 3 ≤ c.cw.toNat % 256 →
      decode c = .paramOther (BitVec.ofNat 8 (c.cw.toNat % 256)) c.din) ∧
    (c.cw &&& 0x300#10 = 0x300#10 → decode c = .resume) ∧
    [decide (c.cw &&& 0x300#10 = 0x000#10), decide (c.cw &&& 0x300#10 = 0x100#10),
     decide (c.cw &&& 0x3FF#10 = 0x200#10), decide (c.cw &&& 0x3FF#10 = 0x201#10),
     decide (c.cw &&& 0x3FF#10 = 0x202#10),
     decide (c.cw &&& 0x300#10 = 0x200#10 ∧ 3 ≤ c.cw.toNat % 256),
     decide (c.cw &&& 0x300#10 = 0x300#10)].count true = 1

/-- The decoder gives well-formed commands only. -/
def Obligations.DecodedIsWellFormed : Prop := ∀ c : Command, (decode c).WellFormed

/-- What decoding forgets: the `idx` bits of INIT, PROC and RESUME and the DIN of INIT and RESUME, nothing else
(rules R83, R87). -/
def Obligations.EncodeDecodeKeepsUsedBits : Prop :=
  ∀ c : Command,
    ((encode (decode c)).cw = if opOf c.cw = 0b10#2 then c.cw else c.cw &&& 0x300#10) ∧
    (opOf c.cw = 0b01#2 ∨ opOf c.cw = 0b10#2 → (encode (decode c)).din = c.din)

/-- A step runs the decoded command: the oldest command leaves the port, and the step is its meaning; with no command on
the port the block waits, unchanged (rule R81). -/
def Obligations.StepRunsDecodedCommand : Prop :=
  (∀ (s : State) (c : Command) (cs : List Command), s.pending = c :: cs →
    step s = exec (decode c) { s with pending := cs }) ∧
  (∀ s : State, s.pending = [] → step s = .next s)

/-- A row of the opcode table presented on the port runs as the next step, in every state; a number of more than ten bits
stands for no command. -/
def Obligations.PresentedRowRunsNext : Prop :=
  (∀ (s : State) (n w : Nat) (i : Instr), decodeTableWord n w = some i → step (s.withFetchWord n w) = exec i s) ∧
  (∀ n w : Nat, decodeTableWord n w = none ↔ 1024 ≤ w)

/-! ## Integers and memory -/

/-- The arithmetic right shift is the floor of the quotient, for every integer (rule R11). -/
def Obligations.ShiftIsFloor : Prop := ∀ (v : Int) (n : Nat), asr v n = ⌊(v : Rat) / 2 ^ n⌋

/-- `wrap_32(v)` is the unique integer in [-2^31, 2^31) congruent to v modulo 2^32 (rule R11). -/
def Obligations.WrapIsUniqueResidue : Prop :=
  ∀ v w : Int, wrap32 v = w ↔ (-2 ^ 31 ≤ w ∧ w < 2 ^ 31) ∧ (2 ^ 32 : Int) ∣ v - w

/-- Two canonical memories that read alike at every word are the same data. -/
def Obligations.CanonicalMemoriesReadingAlikeAreEqual : Prop :=
  ∀ m n : Memory, m.wf = true → n.wf = true → (∀ k, m.read k = n.read k) → m = n

/-- DB.READ reads the signed word at `(CUR[b] + d) mod CAP[b]`, which lies in the array, for every offset (rules R64,
R102). -/
def Obligations.ReadAddressesModuloCapacity : Prop :=
  ∀ (cap : Nat) (k : DelayBuffer) (d : Nat), (∃ n, cap = 2 ^ n) →
    k.read cap d = (k.mem.wordAt ((k.cur + d) % cap)).toInt ∧ k.index cap d < cap

/-- DB.ADVWR: the cursor moves back modulo the capacity, the narrowed value is stored at the new cursor, every other word
and the gain are as before (rule R104). -/
def Obligations.AdvanceAndWrite : Prop :=
  ∀ (cap : Nat) (k : DelayBuffer) (v : Int), (∃ n, cap = 2 ^ n) → k.cur < cap → k.mem.wf = true →
    (k.advWrite cap v).cur = (k.cur + (cap - 1)) % cap ∧
    (∀ j, (k.advWrite cap v).mem.read j =
      if j = (k.cur + (cap - 1)) % cap then (BitVec.ofInt 32 v).toInt else k.mem.read j) ∧
    (k.advWrite cap v).gain = k.gain

/-- DB.RESET: every word 0, the cursor 0, the gain untouched (rule R106). -/
def Obligations.ResetClearsBuffer : Prop :=
  ∀ k : DelayBuffer, (∀ j, k.reset.mem.read j = 0) ∧ k.reset.cur = 0 ∧ k.reset.gain = k.gain

/-- Laws DB1 and DB2: after a write, offset 0 is the value written, and every other sample has moved one step further
back. -/
def Obligations.WriteShiftsDelayLine : Prop :=
  ∀ (cap : Nat) (k : DelayBuffer) (v : Int), (∃ n, cap = 2 ^ n) → k.cur < cap → k.mem.wf = true →
    (k.advWrite cap v).read cap 0 = wrap32 v ∧
    (∀ d, d + 2 ≤ cap → (k.advWrite cap v).read cap (d + 1) = k.read cap d)

/-- Law DB3: an offset and the offset one capacity further read the same word. -/
def Obligations.ReadWrapsAround : Prop :=
  ∀ (cap : Nat) (k : DelayBuffer) (d : Nat), (∃ n, cap = 2 ^ n) → k.read cap (d + cap) = k.read cap d

/-- Law DB4: after a reset and a run of writes, offset d reads the d-th newest value written, narrowed, and 0 where the run
was shorter. -/
def Obligations.RingReadsHistory : Prop :=
  ∀ (cap : Nat) (k : DelayBuffer) (vs : List Int) (d : Nat), (∃ n, cap = 2 ^ n) → d < cap →
    (vs.foldl (fun b v => b.advWrite cap v) k.reset).read cap d = wrap32 ((vs.reverse[d]?).getD 0)

/-- Law DB5: the word index that the last of a run of writes after a reset lands on. -/
def Obligations.RingWriteIndex : Prop :=
  ∀ (cap : Nat) (k : DelayBuffer) (vs : List Int), (∃ n, cap = 2 ^ n) →
    ((vs.foldl (fun b v => b.advWrite cap v) k.reset).cur : Int) = ((cap : Int) - vs.length) % cap

/-! ## The Gain Table -/

/-- GT.INDEX: `floor(64 × t)` clamped to 0..64; on [0,1] row 64 is reached by 1 alone (rule R122). -/
def Obligations.GainTableIndex : Prop :=
  (∀ t : Amplitude, ((gtIndex t).val : Int) = min 64 (max 0 ⌊64 * t⌋)) ∧
  (∀ t : Amplitude, 0 ≤ t → t ≤ 1 → ((gtIndex t).val = 64 ↔ t = 1))

/-- GAIN.LOAD: C0..C2 from row 1, C3..C5 from the row of TIDX, column i for slot Ci; the all-pass gains, the memories, the
cursors and every other register stay (rule R126). -/
def Obligations.GainLoadPolicy : Prop :=
  ∀ s : State,
    (∀ j : Fin 3, ((gainLoad s).buffer (.comb (j.castAdd 3))).gain = (s.cfg.gt.get 1).get (j.castAdd 3)) ∧
    (∀ k : Fin 3, ((gainLoad s).buffer (.comb (k.natAdd 3))).gain = (s.cfg.gt.get s.tidx).get (k.natAdd 3)) ∧
    (∀ i : Fin 4, (gainLoad s).buffer (.ap i) = s.buffer (.ap i)) ∧
    (∀ b, ((gainLoad s).buffer b).mem = (s.buffer b).mem ∧ ((gainLoad s).buffer b).cur = (s.buffer b).cur) ∧
    { gainLoad s with buf := s.buf } = s

/-! ## INIT, faults and refusals -/

/-- INIT (rule R210): its words; with legal capacities and FAULT = 0 the whole state after it; with a capacity that is no
power of two ConfigFatal at the first offender, nothing else written; with FAULT = 1 the refusal. That the configuration,
the command port and the count of free samples stay is about fields of the model's own choosing
(notes/assumptions/1.md, 5.md, 6.md). -/
def Obligations.InitInitialisesBlock : Prop :=
  (∀ c : Command, c.cw &&& 0x300#10 = 0x000#10 → decode c = .init) ∧
  (∀ s : State, s.fault = true → exec .init s = .next { s with resp := some ⟨.refused, none⟩ }) ∧
  (∀ (s : State) (b : Slot) (before after : List Slot), s.fault = false →
    Slot.all = before ++ b :: after → (¬ ∃ n, s.cfg.cap.get b = 2 ^ n) →
    (∀ d ∈ before, ∃ n, s.cfg.cap.get d = 2 ^ n) →
    exec .init s = .next { s with fault := true, resp := some ⟨.fault b, none⟩ }) ∧
  ∀ s : State, s.fault = false → (∀ b, ∃ n, s.cfg.cap.get b = 2 ^ n) →
    exec .init s = .next
      { cfg       := s.cfg
        buf       := ⟨Vector.ofFn fun i : Fin 6 =>
                        ⟨[], 0, if i.val < 3 then (s.cfg.gt.get 1).get i else (s.cfg.gt.get 0).get i⟩,
                      Vector.ofFn fun _ : Fin 4 => ⟨[], 0, s.cfg.apGain⟩⟩
        time      := 0
        tidx      := 0
        depth     := 0
        mix       := 1 / 2
        ramp      := 0
        inited    := true
        fault     := false
        pending   := s.pending
        resp      := some ⟨.done, none⟩
        freeCount := s.freeCount }

/-- ConfigFatal (rule R231): INIT on a block with FAULT = 0 and a capacity that is no power of two sets FAULT, reports the
first offender in slot order, and writes nothing else; from the state it leaves every command is refused and leaves FAULT
set. -/
def Obligations.InitRaisesConfigFatal : Prop :=
  ∀ (s : State) (b : Slot) (before after : List Slot), s.fault = false →
    Slot.all = before ++ b :: after → (¬ ∃ n, s.cfg.cap.get b = 2 ^ n) →
    (∀ d ∈ before, ∃ n, s.cfg.cap.get d = 2 ^ n) →
    exec .init s = .next { s with fault := true, resp := some ⟨.fault b, none⟩ } ∧
    ∀ i : Instr, exec i { s with fault := true, resp := some ⟨.fault b, none⟩ } =
      .next { s with fault := true, resp := some ⟨.refused, none⟩ }

/-- NotInitialized: every command while FAULT = 1, and PROC, PARAM and RESUME while INITED = 0, are refused and write
nothing (rule R232); no operand is looked at. -/
def Obligations.NotInitializedRefusal : Prop :=
  ∀ (i : Instr) (s : State), (s.fault = true ∨ (s.inited = false ∧ i ≠ .init)) →
    exec i s = .next { s with resp := some ⟨.refused, none⟩ }

/-- After a NotInitialized refusal on a block with FAULT = 0 an INIT does what it would have done without the refused
command (rule R244). -/
def Obligations.RefusalLeavesInitUnchanged : Prop :=
  ∀ (i : Instr) (s : State), s.fault = false → s.inited = false → i ≠ .init →
    ∃ t, exec i s = .next t ∧ exec .init t = exec .init s

/-- A DIN that holds no finite number stops the four commands that use it, on a ready block (rules R84, R234); that the
stop is a refusal of this name is the model's (notes/assumptions/7.md). -/
def Obligations.NonFiniteOperandStops : Prop :=
  ∀ s : State, s.fault = false → s.inited = true →
    exec (.proc .notFinite) s = .refused .operandNotFinite ∧
    exec (.paramTime .notFinite) s = .refused .operandNotFinite ∧
    exec (.paramDepth .notFinite) s = .refused .operandNotFinite ∧
    exec (.paramMix .notFinite) s = .refused .operandNotFinite

/-- INIT forgets: on legal capacities the state after it depends on the configuration, the port and the count of free
samples alone (rule R210, "re-initialises it completely"). -/
def Obligations.InitForgetsHistory : Prop :=
  ∀ s t : State, s.fault = false → t.fault = false → s.cfg = t.cfg → s.pending = t.pending →
    s.freeCount = t.freeCount → (∀ b, ∃ n, s.cfg.cap.get b = 2 ^ n) → exec .init s = exec .init t

/-! ## PARAM and RESUME -/

/-- PARAM time (rule R212): its word; on a ready block TIME is the clamped operand, TIDX its row, the six comb gains the
table's, STATUS done, and the memories, the cursors, the all-pass gains and every other register stay; on a block that is
not ready the refusal. -/
def Obligations.ParamTimeResult : Prop :=
  ∀ (s : State) (v : Amplitude),
    decode ⟨0x200#10, .finite v⟩ = .paramTime (.finite v) ∧
    (s.fault = true ∨ s.inited = false →
      exec (.paramTime (.finite v)) s = .next { s with resp := some ⟨.refused, none⟩ }) ∧
    (s.fault = false → s.inited = true →
      ∃ t, exec (.paramTime (.finite v)) s = .next t ∧
        t.time = min 1 (max 0 v) ∧
        (t.tidx.val : Int) = min 64 (max 0 ⌊64 * min 1 (max 0 v)⌋) ∧
        (∀ j : Fin 3, (t.buffer (.comb (j.castAdd 3))).gain = (s.cfg.gt.get 1).get (j.castAdd 3)) ∧
        (∀ k : Fin 3, (t.buffer (.comb (k.natAdd 3))).gain = (s.cfg.gt.get t.tidx).get (k.natAdd 3)) ∧
        (∀ i : Fin 4, t.buffer (.ap i) = s.buffer (.ap i)) ∧
        (∀ b, (t.buffer b).mem = (s.buffer b).mem ∧ (t.buffer b).cur = (s.buffer b).cur) ∧
        t.resp = some ⟨.done, none⟩ ∧
        { t with buf := s.buf, time := s.time, tidx := s.tidx, resp := s.resp } = s)

/-- With TIME below 1/64 the gains of C3..C5 are 0, whatever they were, and those of C0..C2 are row 1 (property EP4). -/
def Obligations.TimeZeroSilencesStageAGains : Prop :=
  ∀ (s : State) (v : Amplitude), s.cfg.admitted = true → s.fault = false → s.inited = true → v < 1 / 64 →
    ∃ t, exec (.paramTime (.finite v)) s = .next t ∧
      (∀ k : Fin 3, t.gain (.comb (k.natAdd 3)) = 0) ∧
      (∀ j : Fin 3, (t.buffer (.comb (j.castAdd 3))).gain = (s.cfg.gt.get 1).get (j.castAdd 3))

/-- PARAM depth (rule R214): its word; on a ready block DEPTH is the clamped operand, STATUS done and nothing else is
written; on a block that is not ready the refusal. -/
def Obligations.ParamDepthResult : Prop :=
  ∀ (s : State) (v : Amplitude),
    decode ⟨0x201#10, .finite v⟩ = .paramDepth (.finite v) ∧
    (s.fault = true ∨ s.inited = false →
      exec (.paramDepth (.finite v)) s = .next { s with resp := some ⟨.refused, none⟩ }) ∧
    (s.fault = false → s.inited = true →
      exec (.paramDepth (.finite v)) s = .next { s with depth := min 1 (max 0 v), resp := some ⟨.done, none⟩ })

/-- PARAM mix (rule R216): its word; on a ready block the operand is clamped and then remapped, the dead zone
[49/100, 51/100] going to exactly 1/2, STATUS done, and nothing else is written; on a block that is not ready the
refusal. -/
def Obligations.ParamMixResult : Prop :=
  ∀ (s : State) (v : Amplitude),
    decode ⟨0x202#10, .finite v⟩ = .paramMix (.finite v) ∧
    (s.fault = true ∨ s.inited = false →
      exec (.paramMix (.finite v)) s = .next { s with resp := some ⟨.refused, none⟩ }) ∧
    (s.fault = false → s.inited = true →
      exec (.paramMix (.finite v)) s = .next
        { s with
          mix :=
            if min 1 (max 0 v) < 49 / 100 then s.cfg.num.rnd (min 1 (max 0 v) * (50 / 49))
            else if min 1 (max 0 v) ≤ 51 / 100 then 1 / 2
            else s.cfg.num.rnd (1 / 2 + (min 1 (max 0 v) - 51 / 100) * (50 / 49))
          resp := some ⟨.done, none⟩ })

/-- The mix remap keeps [0,1], is non-decreasing there and constant on the dead zone, for every lawful numerics
(rule R198). -/
def Obligations.MixRemapMonotone : Prop :=
  ∀ (c : Cfg) (u v : Amplitude), c.admitted = true → 0 ≤ u → u ≤ v → v ≤ 1 →
    InUnit (mixRemap c.num v) ∧ mixRemap c.num u ≤ mixRemap c.num v ∧
    (49 / 100 ≤ u → v ≤ 51 / 100 → mixRemap c.num u = 1 / 2 ∧ mixRemap c.num v = 1 / 2)

/-- PARAM with an index of 3 to 255 (rule R218): its words; on a ready block STATUS is done and nothing is written,
whatever DIN holds; on a block that is not ready the refusal. -/
def Obligations.ParamUnknownIndexIgnored : Prop :=
  ∀ (s : State) (n : BitVec 8) (v : Din), 3 ≤ n.toNat →
    decode ⟨0x200#10 + n.setWidth 10, v⟩ = .paramOther n v ∧
    (s.fault = true ∨ s.inited = false →
      exec (.paramOther n v) s = .next { s with resp := some ⟨.refused, none⟩ }) ∧
    (s.fault = false → s.inited = true →
      exec (.paramOther n v) s = .next { s with resp := some ⟨.done, none⟩ })

/-- RESUME (rule R220): its words; on a ready block every Delay Buffer is cleared and its gain kept, RAMP is 0, STATUS done,
and TIME, TIDX, DEPTH, MIX and everything else stay; on a block that is not ready the refusal. -/
def Obligations.ResumeResult : Prop :=
  (∀ c : Command, c.cw &&& 0x300#10 = 0x300#10 → decode c = .resume) ∧
  ∀ s : State,
    (s.fault = true ∨ s.inited = false → exec .resume s = .next { s with resp := some ⟨.refused, none⟩ }) ∧
    (s.fault = false → s.inited = true →
      ∃ t, exec .resume s = .next t ∧
        (∀ b, t.buffer b = ⟨[], 0, (s.buffer b).gain⟩) ∧ t.ramp = 0 ∧ t.resp = some ⟨.done, none⟩ ∧
        { t with buf := s.buf, ramp := s.ramp, resp := s.resp } = s)

/-- Nothing of what the rings, the cursors and the ramp held survives a RESUME: two ready blocks that agree in the rest go
to the same state (rules R220, R246). -/
def Obligations.ResumeErasesRings : Prop :=
  ∀ s t : State, s.fault = false → s.inited = true → (∀ b, (s.buffer b).gain = (t.buffer b).gain) →
    { s with buf := t.buf, ramp := t.ramp, resp := t.resp } = t → exec .resume s = exec .resume t

/-! ## The frame -/

/-- PROC, the input and the Comb Network: the input sample x is `toFix` of the ramped input in the contract range and some
signed 32-bit integer outside it; with z the pre-delay reads, and all reads made before any write, each of C3..C5 stores
`x + (z × g >>a 12)` and each of C0..C2 stores `((sum1 + sum[j]) >>a 2) + (z × g >>a 12)` (rules R140, R145, R202). -/
def Obligations.ProcCombNetwork : Prop :=
  ∀ (s : State) (v : Amplitude), s.fault = false → s.inited = true →
    let a := s.cfg.num.rnd (v * s.ramp)
    let z := fun i : Fin 6 => s.dbRead (.comb i) (s.cfg.pre.get i)
    let cross := fun k j : Fin 3 => s.dbRead (.comb (k.natAdd 3)) ((s.cfg.xoff.get k).get j)
    let sum1 := z 3 + z 4 + z 5
    let sum := fun j : Fin 3 => cross 0 j + cross 1 j + cross 2 j
    ∃ (t : State) (x : Int), exec (.proc (.finite v)) s = .next t ∧
      (|a| * 2 ^ s.cfg.sampleFrac < 2 ^ 31 → x = s.cfg.num.toFix a) ∧
      (2 ^ 31 ≤ |a| * 2 ^ s.cfg.sampleFrac → -2 ^ 31 ≤ x ∧ x < 2 ^ 31) ∧
      (∀ k : Fin 3, t.buffer (.comb (k.natAdd 3)) = (s.buffer (.comb (k.natAdd 3))).advWrite (s.cap (.comb (k.natAdd 3)))
        (x + z (k.natAdd 3) * s.gain (.comb (k.natAdd 3)) / 4096)) ∧
      (∀ j : Fin 3, t.buffer (.comb (j.castAdd 3)) = (s.buffer (.comb (j.castAdd 3))).advWrite (s.cap (.comb (j.castAdd 3)))
        ((sum1 + sum j) / 4 + z (j.castAdd 3) * s.gain (.comb (j.castAdd 3)) / 4096))

/-- PROC, the wet path after the Comb Network: `apin` is `sum2` scaled by `floor(4096 × DEPTH)`, each all-pass stage stores
its `feed_in`, which is not narrowed where its `out` is computed, and the last `out` goes to the mixer with the dry path
and through the limiter to both outputs (rules R150, R162, R164, R176, R204, R206). -/
def Obligations.ProcWetPathAndOutput : Prop :=
  ∀ (s : State) (v : Amplitude), s.fault = false → s.inited = true →
    let n := s.cfg.num
    let z := fun i : Fin 4 => s.dbRead (.ap i) (s.cfg.apoff.get i)
    let g := fun i : Fin 4 => s.gain (.ap i)
    let sum2 := s.dbRead (.comb 0) (s.cfg.pre.get 0) + s.dbRead (.comb 1) (s.cfg.pre.get 1)
      + s.dbRead (.comb 2) (s.cfg.pre.get 2)
    ∃ (t : State) (feed out : Fin 4 → Int) (y o : Amplitude), exec (.proc (.finite v)) s = .next t ∧
      feed 0 = sum2 * ⌊4096 * s.depth⌋ / 4096 + z 0 * g 0 / 4096 ∧
      feed 1 = out 0 + z 1 * g 1 / 4096 ∧ feed 2 = out 1 + z 2 * g 2 / 4096 ∧ feed 3 = out 2 + z 3 * g 3 / 4096 ∧
      (∀ i, out i = z i - feed i * g i / 4096) ∧
      (∀ i, t.buffer (.ap i) = (s.buffer (.ap i)).advWrite (s.cap (.ap i)) (feed i)) ∧
      y = n.rnd (n.rnd (n.rnd (1 - s.mix) * (if s.cfg.drySrc = .raw then v else n.rnd (v * s.ramp)))
        + n.rnd (s.mix * n.toAmp (out 3))) ∧
      (|y| < s.cfg.ceil → o = y) ∧
      (s.cfg.ceil ≤ y → 0 < y → o = n.rnd (s.cfg.ceil + s.cfg.softclip s.cfg.ceil (n.rnd (y - s.cfg.ceil)))) ∧
      (s.cfg.ceil ≤ -y → y < 0 → o = -n.rnd (s.cfg.ceil + s.cfg.softclip s.cfg.ceil (n.rnd (-y - s.cfg.ceil)))) ∧
      t.resp = some ⟨.done, some ⟨o, o⟩⟩

/-- PROC, the ramp: 1 stays 1; else one rounded step toward 1, snapping to exactly 1 when the distance left is below
RAMP_EPS (rule R208). -/
def Obligations.ProcAdvancesRamp : Prop :=
  ∀ (s : State) (v : Amplitude), s.fault = false → s.inited = true →
    let n := s.cfg.num
    let r := n.rnd (s.ramp + n.rnd (n.rnd (1 - s.ramp) * s.cfg.rampStep))
    ∃ t, exec (.proc (.finite v)) s = .next t ∧
      t.ramp = (if s.ramp = 1 then 1 else if n.rnd (1 - r) < s.cfg.rampEps then 1 else r)

/-- PROC, everything but the rings and the ramp: it completes with STATUS done and outputs, keeps every gain, and writes no
other register; the model's own count of free samples moves only outside the contract range
(notes/assumptions/6.md). -/
def Obligations.ProcRegisterFrame : Prop :=
  ∀ (s : State) (v : Amplitude), s.fault = false → s.inited = true →
    ∃ t, exec (.proc (.finite v)) s = .next t ∧
      (∃ o, t.resp = some ⟨.done, some o⟩) ∧
      (|s.cfg.num.rnd (v * s.ramp)| * 2 ^ s.cfg.sampleFrac < 2 ^ 31 → t.freeCount = s.freeCount) ∧
      (∀ b, (t.buffer b).gain = (s.buffer b).gain) ∧
      { t with buf := s.buf, ramp := s.ramp, resp := s.resp, freeCount := s.freeCount } = s

/-- PROC, memory: every byte of every delay memory but the four of the word at the slot's new cursor reads as before
(rules R73, R104). -/
def Obligations.ProcMemoryFrame : Prop :=
  ∀ (s : State) (v : Amplitude), s.fault = false → s.inited = true → (∀ b, (s.buffer b).mem.wf = true) →
    ∃ t, exec (.proc (.finite v)) s = .next t ∧
      ∀ (b : Slot) (k : Nat), cursorBack (s.cap b) (s.buffer b).cur = k →
        (t.buffer b).cur = k ∧
        ∀ a, a < 4 * k ∨ 4 * k + 4 ≤ a → (t.buffer b).mem.byteAt a = (s.buffer b).mem.byteAt a

/-- PROC is one step of ten delay lines: what stood at offset d stands at offset d + 1 after the frame (rule R73). -/
def Obligations.FrameShiftsEveryDelayLine : Prop :=
  ∀ (s : State) (v : Amplitude), s.Inv → s.inited = true →
    ∃ t, exec (.proc (.finite v)) s = .next t ∧
      ∀ (b : Slot) (d : Nat), d + 2 ≤ s.cap b → t.dbRead b (d + 1) = s.dbRead b d

/-- Silence in, silence kept: with every delay memory clear a zero input gives two zero outputs and leaves every memory
clear, at every setting of the parameters and for every lawful numerics and curve (EP1, CB1). -/
def Obligations.SilenceIsKept : Prop :=
  ∀ s : State, s.cfg.admitted = true → s.fault = false → s.inited = true → (∀ b, (s.buffer b).mem = []) →
    ∃ t, exec (.proc (.finite 0)) s = .next t ∧ t.resp = some ⟨.done, some ⟨0, 0⟩⟩ ∧ ∀ b, (t.buffer b).mem = []

/-- With DEPTH 0 and clear all-pass rings the output is the limited dry path and the rings stay clear, whatever energy the
comb rings hold (EP3). -/
def Obligations.DepthZeroGivesDryPath : Prop :=
  ∀ (s : State) (v : Amplitude), s.cfg.admitted = true → s.fault = false → s.inited = true → s.depth = 0 →
    (∀ i : Fin 4, (s.buffer (.ap i)).mem = []) →
    let n := s.cfg.num
    let o := limit s.cfg s.cfg.ceil (n.rnd (n.rnd (n.rnd (1 - s.mix) *
      (if s.cfg.drySrc = .raw then v else n.rnd (v * s.ramp)))))
    ∃ t, exec (.proc (.finite v)) s = .next t ∧ t.resp = some ⟨.done, some ⟨o, o⟩⟩ ∧
      ∀ i : Fin 4, (t.buffer (.ap i)).mem = []

/-- The frame after a RESUME: no input enters the rings, every memory stays clear, and the output is the limited dry path
alone (rule R220). -/
def Obligations.FrameAfterResumeIsDry : Prop :=
  ∀ (s : State) (v : Amplitude), s.cfg.admitted = true → s.fault = false → s.inited = true →
    let n := s.cfg.num
    let o := limit s.cfg s.cfg.ceil (n.rnd (n.rnd (n.rnd (1 - s.mix) * (if s.cfg.drySrc = .raw then v else 0))))
    ∃ t u, exec .resume s = .next t ∧ exec (.proc (.finite v)) t = .next u ∧
      u.resp = some ⟨.done, some ⟨o, o⟩⟩ ∧ ∀ b, (u.buffer b).mem = []

/-- Law CB3: what stage A holds after a frame depends on nothing that stage B or the All-Pass Chain holds, nor on TIME,
DEPTH or MIX. -/
def Obligations.StageAIgnoresTheRest : Prop :=
  ∀ (s t : State) (v : Amplitude), s.fault = false → s.inited = true → t.fault = false → t.inited = true →
    s.cfg = t.cfg → s.ramp = t.ramp → s.freeCount = t.freeCount →
    (∀ k : Fin 3, s.buffer (.comb (k.natAdd 3)) = t.buffer (.comb (k.natAdd 3))) →
    ∃ s' t', exec (.proc (.finite v)) s = .next s' ∧ exec (.proc (.finite v)) t = .next t' ∧
      ∀ k : Fin 3, s'.buffer (.comb (k.natAdd 3)) = t'.buffer (.comb (k.natAdd 3))

/-- DEPTH and MIX do not gate the Comb Network: the six comb buffers after a frame depend on nothing of the parameters or
of the all-pass rings (rule R150). -/
def Obligations.CombNetworkIgnoresDepthAndMix : Prop :=
  ∀ (s t : State) (v : Amplitude), s.fault = false → s.inited = true → t.fault = false → t.inited = true →
    s.cfg = t.cfg → s.ramp = t.ramp → s.freeCount = t.freeCount →
    (∀ i : Fin 6, s.buffer (.comb i) = t.buffer (.comb i)) →
    ∃ s' t', exec (.proc (.finite v)) s = .next s' ∧ exec (.proc (.finite v)) t = .next t' ∧
      ∀ i : Fin 6, s'.buffer (.comb i) = t'.buffer (.comb i)

/-- The wet sample of every frame lies within 36 signed bits, whatever the input sample (rule R166). -/
def Obligations.WetSampleBounded : Prop :=
  ∀ (s : State) (x : Int), s.Inv → s.inited = true → |(diffuse (combStages x s)).1| < 2 ^ 35

/-! ## The limiter and the ramp -/

/-- The output of every frame is bounded by the ceiling or by the rounded ceiling plus the bound of the curve, for every
input (EP7, L2). -/
def Obligations.OutputBounded : Prop :=
  ∀ (s : State) (v top : Amplitude), s.cfg.admitted = true → s.fault = false → s.inited = true →
    (∀ e, 0 ≤ e → s.cfg.softclip s.cfg.ceil e ≤ top) →
    ∃ t o, exec (.proc (.finite v)) s = .next t ∧ t.resp = some ⟨.done, some ⟨o, o⟩⟩ ∧
      |o| ≤ max s.cfg.ceil (s.cfg.num.rnd (s.cfg.ceil + top))

/-- LIMIT is odd, keeps the sign up to rounding to 0, and is non-decreasing at and above the ceiling (L3, L4). -/
def Obligations.LimiterOddAndMonotone : Prop :=
  ∀ (c : Cfg) (y w : Amplitude), c.admitted = true →
    limit c c.ceil (-y) = -limit c c.ceil y ∧ (0 ≤ y → 0 ≤ limit c c.ceil y) ∧
    (c.ceil ≤ y → y ≤ w → limit c c.ceil y ≤ limit c c.ceil w)

/-- Only INIT and RESUME lower RAMP; it never passes 1 (rule R208, EP2). -/
def Obligations.RampOnlyRises : Prop :=
  ∀ (i : Instr) (s t : State), s.Inv → s.inited = true → i ≠ .init → i ≠ .resume → exec i s = .next t →
    s.ramp ≤ t.ramp ∧ t.ramp ≤ 1

/-- The fade-in under NUM_EXACT: after n frames from RAMP = 0 the ramp is `1 - (1 - RAMP_STEP)^n` while no advance has
snapped, and exactly 1 at the first advance whose distance falls below RAMP_EPS (rule R208). -/
def Obligations.ExactFadeIn : Prop :=
  ∀ (s : State) (v : Amplitude) (n : Nat), s.fault = false → s.inited = true → s.cfg.numChoice = .exact → s.ramp = 0 →
    s.pending = List.replicate n ⟨0x100#10, .finite v⟩ →
    (∀ k, 1 ≤ k → k < n → s.cfg.rampEps ≤ (1 - s.cfg.rampStep) ^ k) →
    ∃ t, Host.Core.run core n s = .next t ∧
      (n = 0 ∨ s.cfg.rampEps ≤ (1 - s.cfg.rampStep) ^ n → t.ramp = 1 - (1 - s.cfg.rampStep) ^ n) ∧
      (1 ≤ n → (1 - s.cfg.rampStep) ^ n < s.cfg.rampEps → t.ramp = 1)

/-! ## The whole machine -/

/-- No command writes the configuration, and no command but INIT writes a flag; FAULT is never cleared and INITED never
falls (rules R42, R43, R49). -/
def Obligations.FlagsAndConfiguration : Prop :=
  ∀ (i : Instr) (s t : State), exec i s = .next t →
    t.cfg = s.cfg ∧ (s.fault = true → t.fault = true) ∧ (s.inited = true → t.inited = true) ∧
    (i ≠ .init → t.fault = s.fault ∧ t.inited = s.inited)

/-- The write half of the access matrix: which commands leave which registers (rule R47). -/
def Obligations.AccessMatrix : Prop :=
  ∀ (i : Instr) (s t : State), exec i s = .next t → i ≠ .init →
    ((∀ v, i ≠ .paramTime v) → t.time = s.time ∧ t.tidx = s.tidx ∧ ∀ b, (t.buffer b).gain = (s.buffer b).gain) ∧
    (∀ j : Fin 4, (t.buffer (.ap j)).gain = (s.buffer (.ap j)).gain) ∧
    ((∀ v, i ≠ .paramDepth v) → t.depth = s.depth) ∧
    ((∀ v, i ≠ .paramMix v) → t.mix = s.mix) ∧
    ((∀ v, i ≠ .proc v) → i ≠ .resume → t.ramp = s.ramp ∧
      ∀ b, (t.buffer b).mem = (s.buffer b).mem ∧ (t.buffer b).cur = (s.buffer b).cur) ∧
    t.pending = s.pending

/-- Only a PROC that ends `done` gives outputs, and it gives the same value on both (rules R80, R206). -/
def Obligations.OutputsOnlyFromFrames : Prop :=
  ∀ (i : Instr) (s t : State) (r : Response) (o : Outputs), exec i s = .next t → t.resp = some r → r.out = some o →
    r.status = .done ∧ o.outL = o.outR ∧ ∃ v, i = .proc (.finite v)

/-- The invariant of rule R45, with the canonical form of every memory, is kept by every step from every state that has
it. -/
def Obligations.StepKeepsInvariant : Prop := ∀ s t : State, s.Inv → step s = .next t → t.Inv

/-- The state after power-on reset has the invariant. -/
def Obligations.ResetHasInvariant : Prop := State.reset.Inv

/-- Power-on reset: INITED = 0 and FAULT = 0 (rules R46, R250). -/
def Obligations.ResetFlags : Prop := State.reset.inited = false ∧ State.reset.fault = false

/-- A run under P-WF, P-INIT and finite operands has no fault and no refusal: every response is `done` (rule R268). -/
def Obligations.InitialisedRunIsNeverRefused : Prop :=
  ∀ (s : State) (c : Command) (cs : List Command), s.cfg.wf = true → s.fault = false → decode c = .init →
    s.pending = c :: cs → (∀ d ∈ cs, d.hasFiniteDin = true) →
    ∀ k, 1 ≤ k → k ≤ cs.length + 1 →
      ∃ t out, Host.Core.run core k s = .next t ∧ t.resp = some ⟨.done, out⟩ ∧ t.inited = true ∧ t.fault = false

/-- After ConfigFatal every later command is refused, INIT included, and nothing but the two ports changes
(rules R43, R231, R244). -/
def Obligations.FaultedBlockRefusesForever : Prop :=
  ∀ (s : State) (k : Nat), s.fault = true → 1 ≤ k → k ≤ s.pending.length →
    Host.Core.run core k s = .next { s with pending := s.pending.drop k, resp := some ⟨.refused, none⟩ }
end

