-- ==== Sys2Proof/Laws/Bank.lean ====
section
/-!
SUPPORT. A bank of ten values: reading after replacing, and the list of all slots.
-/

namespace Sys2Proof

@[simp] theorem Bank.get_comb {α : Type} (k : Bank α) (i : Fin 6) : k.get (.comb i) = k.comb.get i := rfl

@[simp] theorem Bank.get_ap {α : Type} (k : Bank α) (i : Fin 4) : k.get (.ap i) = k.ap.get i := rfl

theorem Bank.get_set {α : Type} (k : Bank α) (b c : Slot) (v : α) :
    (k.set b v).get c = if b = c then v else k.get c := by
  cases b <;> cases c <;> simp [Bank.get, Bank.set, Vector.get_eq_getElem, Vector.getElem_set, Fin.ext_iff]

@[simp] theorem Bank.get_set_self {α : Type} (k : Bank α) (b : Slot) (v : α) : (k.set b v).get b = v := by
  simp [Bank.get_set]

theorem Bank.get_set_ne {α : Type} (k : Bank α) {b c : Slot} (v : α) (h : b ≠ c) :
    (k.set b v).get c = k.get c := by simp [Bank.get_set, h]

/-- Banks with the same ten values are equal. -/
theorem Bank.ext_get {α : Type} {k l : Bank α} (h : ∀ b, k.get b = l.get b) : k = l := by
  obtain ⟨kc, ka⟩ := k
  obtain ⟨lc, la⟩ := l
  congr
  · apply Vector.ext; intro i hi; exact h (.comb ⟨i, hi⟩)
  · apply Vector.ext; intro i hi; exact h (.ap ⟨i, hi⟩)

theorem Slot.mem_all (b : Slot) : b ∈ Slot.all := by
  cases b with
  | comb i => revert i; decide
  | ap i => revert i; decide

theorem Slot.nodup_all : Slot.all.Nodup := by decide

/-- The power-of-two clause, slot by slot (rule R10). -/
theorem Cfg.capsOk_iff (c : Cfg) : c.capsOk = true ↔ ∀ b, isPowerOfTwo (c.cap.get b) = true := by
  rw [Cfg.capsOk, List.all_eq_true]
  exact ⟨fun h b => h b (Slot.mem_all b), fun h b _ => h b⟩

/-- No slot offends exactly when every capacity is a power of two. -/
theorem Cfg.firstOffender_eq_none (c : Cfg) : c.firstOffender = none ↔ c.capsOk = true := by
  simp [Cfg.firstOffender, Cfg.capsOk]

/-- The first offender is no power of two, and the slots before it are (rule R231). -/
theorem Cfg.firstOffender_eq_some (c : Cfg) (b : Slot) :
    c.firstOffender = some b ↔ isPowerOfTwo (c.cap.get b) = false ∧
      ∃ before after, Slot.all = before ++ b :: after ∧ ∀ d ∈ before, isPowerOfTwo (c.cap.get d) = true := by
  simp [Cfg.firstOffender, List.find?_eq_some_iff_append]

end Sys2Proof
end

