-- ==== Sys2Proof/Laws/Arith.lean ====
section
/-!
SUPPORT. The integer operations: shift, narrowing, scaling (rules R11, R12).
-/

namespace Sys2Proof.Machine

theorem asr_twelve (v : Int) : asr v 12 = v / 4096 := by simp [asr]

theorem asr_two (v : Int) : asr v 2 = v / 4 := by simp [asr]

theorem scaleQ12_eq (v g : Int) : scaleQ12 v g = v * g / 4096 := asr_twelve _

@[simp] theorem scaleQ12_zero_left (g : Int) : scaleQ12 0 g = 0 := by simp [scaleQ12_eq]

@[simp] theorem scaleQ12_zero_right (v : Int) : scaleQ12 v 0 = 0 := by simp [scaleQ12_eq]

@[simp] theorem asr_zero (n : Nat) : asr 0 n = 0 := by simp [asr]

/-- Scaling by a coefficient of magnitude at most 1.0 never increases a magnitude (rule R166). -/
theorem abs_scaleQ12_le (v g : Int) (hg : |g| ≤ 4096) : |scaleQ12 v g| ≤ |v| := by
  rw [scaleQ12_eq]
  have h : |v * g| ≤ |v| * 4096 := by
    rw [abs_mul]; exact mul_le_mul_of_nonneg_left hg (abs_nonneg v)
  rw [abs_le] at h ⊢
  omega

theorem wrap32_eq_bmod (v : Int) : wrap32 v = v.bmod (2 ^ 32) := by simp [wrap32, BitVec.toInt_ofInt]

/-- `wrap_32` is the identity on what fits 32 bits (rule R262). -/
theorem wrap32_of_range {v : Int} (h0 : -2 ^ 31 ≤ v) (h1 : v < 2 ^ 31) : wrap32 v = v := by
  rw [wrap32_eq_bmod]; simp only [Int.bmod]; omega

@[simp] theorem wrap32_zero : wrap32 0 = 0 := by decide +kernel

theorem wrap32_range (v : Int) : -2 ^ 31 ≤ wrap32 v ∧ wrap32 v < 2 ^ 31 := by
  rw [wrap32_eq_bmod]; simp only [Int.bmod]; omega

/-- Masking with `2^k - 1` is the remainder by `2^k` (rule R64). -/
theorem and_mask_of_powerOfTwo {cap : Nat} (h : isPowerOfTwo cap = true) (n : Nat) :
    n &&& maskOf cap = n % cap := by
  have h' : cap = 2 ^ cap.log2 := by simpa [isPowerOfTwo] using h
  rw [maskOf, h', Nat.and_two_pow_sub_one_eq_mod]

theorem isPowerOfTwo_pos {cap : Nat} (h : isPowerOfTwo cap = true) : 0 < cap := by
  have h' : cap = 2 ^ cap.log2 := by simpa [isPowerOfTwo] using h
  rw [h']; positivity

/-- `isPowerOfTwo` says what its name says (rule R10). -/
theorem isPowerOfTwo_iff (n : Nat) : isPowerOfTwo n = true ↔ ∃ k, n = 2 ^ k := by
  constructor
  · intro h; exact ⟨n.log2, by simpa [isPowerOfTwo] using h⟩
  · rintro ⟨k, rfl⟩; simp [isPowerOfTwo]

/-- The cursor one step back, as a remainder. -/
theorem cursorBack_eq_mod {cap cur : Nat} (hp : isPowerOfTwo cap = true) (hc : cur < cap) :
    cursorBack cap cur = (cur + (cap - 1)) % cap := by
  unfold cursorBack
  split
  · subst_vars; rw [maskOf, Nat.zero_add, Nat.mod_eq_of_lt (by omega)]
  · rw [and_mask_of_powerOfTwo hp, Nat.mod_eq_of_lt (by omega),
      show cur + (cap - 1) = (cur - 1) + cap by omega, Nat.add_mod_right, Nat.mod_eq_of_lt (by omega)]

theorem cursorBack_lt {cap cur : Nat} (hp : isPowerOfTwo cap = true) (hc : cur < cap) : cursorBack cap cur < cap := by
  rw [cursorBack_eq_mod hp hc]; exact Nat.mod_lt _ (by omega)

end Sys2Proof.Machine
end

