-- ==== Sys2Proof/Laws/Memory.lean ====
section
/-!
SUPPORT. A delay memory: reading after writing, byte by byte and word by word, and the canonical form that every
memory operation keeps.
-/

namespace Sys2Proof.Machine

@[simp] theorem Memory.byteAt_nil (a : Nat) : Memory.byteAt [] a = 0 := rfl

theorem Memory.wfFrom_mono {m : Memory} {lo hi : Nat} (h : lo ≤ hi) (hm : Memory.wfFrom hi m = true) :
    Memory.wfFrom lo m = true := by
  cases m with
  | nil => rfl
  | cons c m =>
    obtain ⟨k, v⟩ := c
    simp only [Memory.wfFrom, Bool.and_eq_true, decide_eq_true_eq] at hm ⊢
    exact ⟨⟨by omega, hm.1.2⟩, hm.2⟩

/-- A canonical memory reads 0 below its first address. -/
theorem Memory.byteAt_eq_zero {m : Memory} {lo a : Nat} (hm : Memory.wfFrom lo m = true) (h : a < lo) :
    m.byteAt a = 0 := by
  induction m generalizing lo with
  | nil => rfl
  | cons c m ih =>
    obtain ⟨k, v⟩ := c
    simp only [Memory.wfFrom, Bool.and_eq_true, decide_eq_true_eq] at hm
    rw [Memory.byteAt, if_neg (by omega)]
    exact ih hm.2 (by omega)

theorem Memory.byteAt_consByte {m : Memory} {a : Nat} (v : Byte) (hm : Memory.wfFrom (a + 1) m = true) (c : Nat) :
    (Memory.consByte a v m).byteAt c = if c = a then v else m.byteAt c := by
  unfold Memory.consByte
  split
  · split
    · subst_vars; exact Memory.byteAt_eq_zero hm (by omega)
    · rfl
  · simp only [Memory.byteAt, eq_comm]

theorem Memory.consByte_wfFrom {m : Memory} {lo a : Nat} (v : Byte) (h : lo ≤ a)
    (hm : Memory.wfFrom (a + 1) m = true) : Memory.wfFrom lo (Memory.consByte a v m) = true := by
  unfold Memory.consByte
  split
  · exact Memory.wfFrom_mono (by omega) hm
  · simp_all [Memory.wfFrom]

theorem Memory.setByte_wfFrom {m : Memory} {lo a : Nat} (v : Byte) (h : lo ≤ a) (hm : Memory.wfFrom lo m = true) :
    Memory.wfFrom lo (m.setByte a v) = true := by
  induction m generalizing lo with
  | nil => exact Memory.consByte_wfFrom v h rfl
  | cons c m ih =>
    obtain ⟨k, w⟩ := c
    simp only [Memory.wfFrom, Bool.and_eq_true, decide_eq_true_eq] at hm
    unfold Memory.setByte
    split
    · refine Memory.consByte_wfFrom v h ?_
      simp only [Memory.wfFrom, Bool.and_eq_true, decide_eq_true_eq]
      exact ⟨⟨by omega, hm.1.2⟩, hm.2⟩
    · split
      · subst_vars; exact Memory.consByte_wfFrom v h hm.2
      · simp only [Memory.wfFrom, Bool.and_eq_true, decide_eq_true_eq]
        exact ⟨hm.1, ih (by omega) hm.2⟩

/-- The byte read after a byte is replaced. -/
theorem Memory.byteAt_setByte {m : Memory} {lo : Nat} (a : Nat) (v : Byte) (hm : Memory.wfFrom lo m = true) (c : Nat) :
    (m.setByte a v).byteAt c = if c = a then v else m.byteAt c := by
  induction m generalizing lo with
  | nil => exact Memory.byteAt_consByte v rfl c
  | cons d m ih =>
    obtain ⟨k, w⟩ := d
    have hm' := hm
    simp only [Memory.wfFrom, Bool.and_eq_true, decide_eq_true_eq] at hm'
    unfold Memory.setByte
    split
    · refine Memory.byteAt_consByte v ?_ c
      simp only [Memory.wfFrom, Bool.and_eq_true, decide_eq_true_eq]
      exact ⟨⟨by omega, hm'.1.2⟩, hm'.2⟩
    · split
      · subst_vars
        rw [Memory.byteAt_consByte v hm'.2, Memory.byteAt]
        split
        · rfl
        · rw [if_neg (by omega)]
      · simp only [Memory.byteAt, ih hm'.2]
        split
        · rw [if_neg (by omega)]
        · rfl

theorem Memory.setByte_wf {m : Memory} (a : Nat) (v : Byte) (hm : m.wf = true) : (m.setByte a v).wf = true :=
  Memory.setByte_wfFrom v (by omega) hm

/-- Replacing a word keeps the canonical form. -/
theorem Memory.setWord_wf {m : Memory} (k : Nat) (w : Word) (hm : m.wf = true) : (m.setWord k w).wf = true :=
  Memory.setByte_wf _ _ (Memory.setByte_wf _ _ (Memory.setByte_wf _ _ (Memory.setByte_wf _ _ hm)))

/-- MemWrite keeps the canonical form. -/
theorem Memory.write_wf {m : Memory} (k : Nat) (v : Int) (hm : m.wf = true) : (m.write k v).wf = true :=
  Memory.setWord_wf k _ hm

/-- The byte read after a word is replaced. -/
theorem Memory.byteAt_setWord {m : Memory} (k : Nat) (w : Word) (hm : m.wf = true) (c : Nat) :
    (m.setWord k w).byteAt c = if c / 4 = k then w.extractLsb' (8 * (c % 4)) 8 else m.byteAt c := by
  have h1 := Memory.setByte_wf (4 * k) (w.extractLsb' 0 8) hm
  have h2 := Memory.setByte_wf (4 * k + 1) (w.extractLsb' 8 8) h1
  have h3 := Memory.setByte_wf (4 * k + 2) (w.extractLsb' 16 8) h2
  unfold Memory.setWord
  rw [Memory.byteAt_setByte _ _ h3, Memory.byteAt_setByte _ _ h2, Memory.byteAt_setByte _ _ h1,
    Memory.byteAt_setByte _ _ hm]
  by_cases hk : c / 4 = k
  · rw [if_pos hk]
    have : c % 4 = 0 ∨ c % 4 = 1 ∨ c % 4 = 2 ∨ c % 4 = 3 := by omega
    rcases this with h | h | h | h
    · rw [if_neg (by omega), if_neg (by omega), if_neg (by omega), if_pos (by omega), h]
    · rw [if_neg (by omega), if_neg (by omega), if_pos (by omega), h]
    · rw [if_neg (by omega), if_pos (by omega), h]
    · rw [if_pos (by omega), h]
  · rw [if_neg hk, if_neg (by omega), if_neg (by omega), if_neg (by omega), if_neg (by omega)]

/-- The word read after a word is replaced. -/
theorem Memory.wordAt_setWord {m : Memory} (k : Nat) (w : Word) (hm : m.wf = true) (j : Nat) :
    (m.setWord k w).wordAt j = if j = k then w else m.wordAt j := by
  simp only [Memory.wordAt, Memory.byteAt_setWord k w hm]
  have e0 : 4 * j / 4 = j := by omega
  have e1 : (4 * j + 1) / 4 = j := by omega
  have e2 : (4 * j + 2) / 4 = j := by omega
  have e3 : (4 * j + 3) / 4 = j := by omega
  have f0 : 4 * j % 4 = 0 := by omega
  have f1 : (4 * j + 1) % 4 = 1 := by omega
  have f2 : (4 * j + 2) % 4 = 2 := by omega
  have f3 : (4 * j + 3) % 4 = 3 := by omega
  rw [e0, e1, e2, e3, f0, f1, f2, f3]
  by_cases h : j = k
  · simp only [if_pos h]
    apply BitVec.eq_of_getLsbD_eq
    intro i hi
    simp only [BitVec.getLsbD_append, BitVec.getLsbD_extractLsb']
    by_cases h0 : i < 8
    · simp [h0]
    · by_cases h1 : i < 16
      · rw [if_neg h0, if_pos (by omega)]
        have : i - 8 < 8 := by omega
        simp [this]; congr 1; omega
      · by_cases h2 : i < 24
        · rw [if_neg h0, if_neg (by omega), if_pos (by omega)]
          have : i - 8 - 8 < 8 := by omega
          simp [this]; congr 1; omega
        · rw [if_neg h0, if_neg (by omega), if_neg (by omega)]
          have : i - 8 - 8 - 8 < 8 := by omega
          simp [this]; congr 1; omega
  · simp only [if_neg h]

/-- MemRead after MemWrite: the narrowed value at the word written, every other word as before (rule R61). -/
theorem Memory.read_write {m : Memory} (k : Nat) (v : Int) (hm : m.wf = true) (j : Nat) :
    (m.write k v).read j = if j = k then wrap32 v else m.read j := by
  unfold Memory.read Memory.write
  rw [Memory.wordAt_setWord k _ hm]
  split <;> rfl

/-- The memory that lists nothing reads 0 everywhere (rule R106). -/
@[simp] theorem Memory.read_nil (k : Nat) : Memory.read [] k = 0 := by
  simp only [Memory.read, Memory.wordAt, Memory.byteAt_nil]; decide +kernel

/-- Storing 0 in a clear memory leaves it clear. -/
@[simp] theorem Memory.write_nil_zero (k : Nat) : Memory.write [] k 0 = [] := by
  simp [Memory.write, Memory.setWord, Memory.setByte, Memory.consByte]

/-- A sample read is a signed 32-bit integer (rule R61). -/
theorem Memory.read_range (m : Memory) (k : Nat) : -2 ^ 31 ≤ m.read k ∧ m.read k < 2 ^ 31 := by
  unfold Memory.read
  exact ⟨BitVec.le_toInt _, BitVec.toInt_lt⟩

end Sys2Proof.Machine
end

