-- ==== Sys2Proof/Laws/State.lean ====
section
/-!
SUPPORT. One lemma per field per update of the state: no later proof unfolds a record update.
Each is true by rfl; the parentheses keep simp from using it as an unfolding step, so that a proof term cites the lemma and
the kernel never compares two large states.
-/

namespace Sys2Proof.Machine

/-! ### setBuffer -/

@[simp] theorem State.setBuffer_cfg (s : State) (b : Slot) (k : DelayBuffer) : (s.setBuffer b k).cfg = s.cfg := (rfl)
@[simp] theorem State.setBuffer_buf (s : State) (b : Slot) (k : DelayBuffer) : (s.setBuffer b k).buf = s.buf.set b k := (rfl)
@[simp] theorem State.setBuffer_time (s : State) (b : Slot) (k : DelayBuffer) : (s.setBuffer b k).time = s.time := (rfl)
@[simp] theorem State.setBuffer_tidx (s : State) (b : Slot) (k : DelayBuffer) : (s.setBuffer b k).tidx = s.tidx := (rfl)
@[simp] theorem State.setBuffer_depth (s : State) (b : Slot) (k : DelayBuffer) : (s.setBuffer b k).depth = s.depth := (rfl)
@[simp] theorem State.setBuffer_mix (s : State) (b : Slot) (k : DelayBuffer) : (s.setBuffer b k).mix = s.mix := (rfl)
@[simp] theorem State.setBuffer_ramp (s : State) (b : Slot) (k : DelayBuffer) : (s.setBuffer b k).ramp = s.ramp := (rfl)
@[simp] theorem State.setBuffer_inited (s : State) (b : Slot) (k : DelayBuffer) : (s.setBuffer b k).inited = s.inited := (rfl)
@[simp] theorem State.setBuffer_fault (s : State) (b : Slot) (k : DelayBuffer) : (s.setBuffer b k).fault = s.fault := (rfl)
@[simp] theorem State.setBuffer_pending (s : State) (b : Slot) (k : DelayBuffer) : (s.setBuffer b k).pending = s.pending := (rfl)
@[simp] theorem State.setBuffer_resp (s : State) (b : Slot) (k : DelayBuffer) : (s.setBuffer b k).resp = s.resp := (rfl)
@[simp] theorem State.setBuffer_freeCount (s : State) (b : Slot) (k : DelayBuffer) : (s.setBuffer b k).freeCount = s.freeCount := (rfl)

/-! ### setGain -/

@[simp] theorem State.setGain_cfg (s : State) (b : Slot) (g : Coef) : (s.setGain b g).cfg = s.cfg := (rfl)
@[simp] theorem State.setGain_buf (s : State) (b : Slot) (g : Coef) : (s.setGain b g).buf = s.buf.set b { s.buffer b with gain := g } := (rfl)
@[simp] theorem State.setGain_time (s : State) (b : Slot) (g : Coef) : (s.setGain b g).time = s.time := (rfl)
@[simp] theorem State.setGain_tidx (s : State) (b : Slot) (g : Coef) : (s.setGain b g).tidx = s.tidx := (rfl)
@[simp] theorem State.setGain_depth (s : State) (b : Slot) (g : Coef) : (s.setGain b g).depth = s.depth := (rfl)
@[simp] theorem State.setGain_mix (s : State) (b : Slot) (g : Coef) : (s.setGain b g).mix = s.mix := (rfl)
@[simp] theorem State.setGain_ramp (s : State) (b : Slot) (g : Coef) : (s.setGain b g).ramp = s.ramp := (rfl)
@[simp] theorem State.setGain_inited (s : State) (b : Slot) (g : Coef) : (s.setGain b g).inited = s.inited := (rfl)
@[simp] theorem State.setGain_fault (s : State) (b : Slot) (g : Coef) : (s.setGain b g).fault = s.fault := (rfl)
@[simp] theorem State.setGain_pending (s : State) (b : Slot) (g : Coef) : (s.setGain b g).pending = s.pending := (rfl)
@[simp] theorem State.setGain_resp (s : State) (b : Slot) (g : Coef) : (s.setGain b g).resp = s.resp := (rfl)
@[simp] theorem State.setGain_freeCount (s : State) (b : Slot) (g : Coef) : (s.setGain b g).freeCount = s.freeCount := (rfl)

/-! ### dbAdvWr -/

@[simp] theorem State.dbAdvWr_cfg (s : State) (b : Slot) (v : Int) : (s.dbAdvWr b v).cfg = s.cfg := (rfl)
@[simp] theorem State.dbAdvWr_buf (s : State) (b : Slot) (v : Int) : (s.dbAdvWr b v).buf = s.buf.set b ((s.buffer b).advWrite (s.cap b) v) := (rfl)
@[simp] theorem State.dbAdvWr_time (s : State) (b : Slot) (v : Int) : (s.dbAdvWr b v).time = s.time := (rfl)
@[simp] theorem State.dbAdvWr_tidx (s : State) (b : Slot) (v : Int) : (s.dbAdvWr b v).tidx = s.tidx := (rfl)
@[simp] theorem State.dbAdvWr_depth (s : State) (b : Slot) (v : Int) : (s.dbAdvWr b v).depth = s.depth := (rfl)
@[simp] theorem State.dbAdvWr_mix (s : State) (b : Slot) (v : Int) : (s.dbAdvWr b v).mix = s.mix := (rfl)
@[simp] theorem State.dbAdvWr_ramp (s : State) (b : Slot) (v : Int) : (s.dbAdvWr b v).ramp = s.ramp := (rfl)
@[simp] theorem State.dbAdvWr_inited (s : State) (b : Slot) (v : Int) : (s.dbAdvWr b v).inited = s.inited := (rfl)
@[simp] theorem State.dbAdvWr_fault (s : State) (b : Slot) (v : Int) : (s.dbAdvWr b v).fault = s.fault := (rfl)
@[simp] theorem State.dbAdvWr_pending (s : State) (b : Slot) (v : Int) : (s.dbAdvWr b v).pending = s.pending := (rfl)
@[simp] theorem State.dbAdvWr_resp (s : State) (b : Slot) (v : Int) : (s.dbAdvWr b v).resp = s.resp := (rfl)
@[simp] theorem State.dbAdvWr_freeCount (s : State) (b : Slot) (v : Int) : (s.dbAdvWr b v).freeCount = s.freeCount := (rfl)

/-! ### dbReset -/

@[simp] theorem State.dbReset_cfg (s : State) (b : Slot) : (s.dbReset b).cfg = s.cfg := (rfl)
@[simp] theorem State.dbReset_buf (s : State) (b : Slot) : (s.dbReset b).buf = s.buf.set b (s.buffer b).reset := (rfl)
@[simp] theorem State.dbReset_time (s : State) (b : Slot) : (s.dbReset b).time = s.time := (rfl)
@[simp] theorem State.dbReset_tidx (s : State) (b : Slot) : (s.dbReset b).tidx = s.tidx := (rfl)
@[simp] theorem State.dbReset_depth (s : State) (b : Slot) : (s.dbReset b).depth = s.depth := (rfl)
@[simp] theorem State.dbReset_mix (s : State) (b : Slot) : (s.dbReset b).mix = s.mix := (rfl)
@[simp] theorem State.dbReset_ramp (s : State) (b : Slot) : (s.dbReset b).ramp = s.ramp := (rfl)
@[simp] theorem State.dbReset_inited (s : State) (b : Slot) : (s.dbReset b).inited = s.inited := (rfl)
@[simp] theorem State.dbReset_fault (s : State) (b : Slot) : (s.dbReset b).fault = s.fault := (rfl)
@[simp] theorem State.dbReset_pending (s : State) (b : Slot) : (s.dbReset b).pending = s.pending := (rfl)
@[simp] theorem State.dbReset_resp (s : State) (b : Slot) : (s.dbReset b).resp = s.resp := (rfl)
@[simp] theorem State.dbReset_freeCount (s : State) (b : Slot) : (s.dbReset b).freeCount = s.freeCount := (rfl)

/-! ### dbResetAll -/

@[simp] theorem State.dbResetAll_cfg (s : State) : (s.dbResetAll).cfg = s.cfg := (rfl)
@[simp] theorem State.dbResetAll_time (s : State) : (s.dbResetAll).time = s.time := (rfl)
@[simp] theorem State.dbResetAll_tidx (s : State) : (s.dbResetAll).tidx = s.tidx := (rfl)
@[simp] theorem State.dbResetAll_depth (s : State) : (s.dbResetAll).depth = s.depth := (rfl)
@[simp] theorem State.dbResetAll_mix (s : State) : (s.dbResetAll).mix = s.mix := (rfl)
@[simp] theorem State.dbResetAll_ramp (s : State) : (s.dbResetAll).ramp = s.ramp := (rfl)
@[simp] theorem State.dbResetAll_inited (s : State) : (s.dbResetAll).inited = s.inited := (rfl)
@[simp] theorem State.dbResetAll_fault (s : State) : (s.dbResetAll).fault = s.fault := (rfl)
@[simp] theorem State.dbResetAll_pending (s : State) : (s.dbResetAll).pending = s.pending := (rfl)
@[simp] theorem State.dbResetAll_resp (s : State) : (s.dbResetAll).resp = s.resp := (rfl)
@[simp] theorem State.dbResetAll_freeCount (s : State) : (s.dbResetAll).freeCount = s.freeCount := (rfl)

/-! ### endDone -/

@[simp] theorem State.endDone_cfg (s : State) : (s.endDone).cfg = s.cfg := (rfl)
@[simp] theorem State.endDone_buf (s : State) : (s.endDone).buf = s.buf := (rfl)
@[simp] theorem State.endDone_time (s : State) : (s.endDone).time = s.time := (rfl)
@[simp] theorem State.endDone_tidx (s : State) : (s.endDone).tidx = s.tidx := (rfl)
@[simp] theorem State.endDone_depth (s : State) : (s.endDone).depth = s.depth := (rfl)
@[simp] theorem State.endDone_mix (s : State) : (s.endDone).mix = s.mix := (rfl)
@[simp] theorem State.endDone_ramp (s : State) : (s.endDone).ramp = s.ramp := (rfl)
@[simp] theorem State.endDone_inited (s : State) : (s.endDone).inited = s.inited := (rfl)
@[simp] theorem State.endDone_fault (s : State) : (s.endDone).fault = s.fault := (rfl)
@[simp] theorem State.endDone_pending (s : State) : (s.endDone).pending = s.pending := (rfl)
@[simp] theorem State.endDone_resp (s : State) : (s.endDone).resp = some ⟨.done, none⟩ := (rfl)
@[simp] theorem State.endDone_freeCount (s : State) : (s.endDone).freeCount = s.freeCount := (rfl)

/-! ### endFrame -/

@[simp] theorem State.endFrame_cfg (s : State) (o : Outputs) : (s.endFrame o).cfg = s.cfg := (rfl)
@[simp] theorem State.endFrame_buf (s : State) (o : Outputs) : (s.endFrame o).buf = s.buf := (rfl)
@[simp] theorem State.endFrame_time (s : State) (o : Outputs) : (s.endFrame o).time = s.time := (rfl)
@[simp] theorem State.endFrame_tidx (s : State) (o : Outputs) : (s.endFrame o).tidx = s.tidx := (rfl)
@[simp] theorem State.endFrame_depth (s : State) (o : Outputs) : (s.endFrame o).depth = s.depth := (rfl)
@[simp] theorem State.endFrame_mix (s : State) (o : Outputs) : (s.endFrame o).mix = s.mix := (rfl)
@[simp] theorem State.endFrame_ramp (s : State) (o : Outputs) : (s.endFrame o).ramp = s.ramp := (rfl)
@[simp] theorem State.endFrame_inited (s : State) (o : Outputs) : (s.endFrame o).inited = s.inited := (rfl)
@[simp] theorem State.endFrame_fault (s : State) (o : Outputs) : (s.endFrame o).fault = s.fault := (rfl)
@[simp] theorem State.endFrame_pending (s : State) (o : Outputs) : (s.endFrame o).pending = s.pending := (rfl)
@[simp] theorem State.endFrame_resp (s : State) (o : Outputs) : (s.endFrame o).resp = some ⟨.done, some o⟩ := (rfl)
@[simp] theorem State.endFrame_freeCount (s : State) (o : Outputs) : (s.endFrame o).freeCount = s.freeCount := (rfl)

/-! ### raiseConfigFatal -/

@[simp] theorem State.raiseConfigFatal_cfg (s : State) (b : Slot) : (s.raiseConfigFatal b).cfg = s.cfg := (rfl)
@[simp] theorem State.raiseConfigFatal_buf (s : State) (b : Slot) : (s.raiseConfigFatal b).buf = s.buf := (rfl)
@[simp] theorem State.raiseConfigFatal_time (s : State) (b : Slot) : (s.raiseConfigFatal b).time = s.time := (rfl)
@[simp] theorem State.raiseConfigFatal_tidx (s : State) (b : Slot) : (s.raiseConfigFatal b).tidx = s.tidx := (rfl)
@[simp] theorem State.raiseConfigFatal_depth (s : State) (b : Slot) : (s.raiseConfigFatal b).depth = s.depth := (rfl)
@[simp] theorem State.raiseConfigFatal_mix (s : State) (b : Slot) : (s.raiseConfigFatal b).mix = s.mix := (rfl)
@[simp] theorem State.raiseConfigFatal_ramp (s : State) (b : Slot) : (s.raiseConfigFatal b).ramp = s.ramp := (rfl)
@[simp] theorem State.raiseConfigFatal_inited (s : State) (b : Slot) : (s.raiseConfigFatal b).inited = s.inited := (rfl)
@[simp] theorem State.raiseConfigFatal_fault (s : State) (b : Slot) : (s.raiseConfigFatal b).fault = true := (rfl)
@[simp] theorem State.raiseConfigFatal_pending (s : State) (b : Slot) : (s.raiseConfigFatal b).pending = s.pending := (rfl)
@[simp] theorem State.raiseConfigFatal_resp (s : State) (b : Slot) : (s.raiseConfigFatal b).resp = some ⟨.fault b, none⟩ := (rfl)
@[simp] theorem State.raiseConfigFatal_freeCount (s : State) (b : Slot) : (s.raiseConfigFatal b).freeCount = s.freeCount := (rfl)

/-! ### refuseNotInitialized -/

@[simp] theorem State.refuseNotInitialized_cfg (s : State) : (s.refuseNotInitialized).cfg = s.cfg := (rfl)
@[simp] theorem State.refuseNotInitialized_buf (s : State) : (s.refuseNotInitialized).buf = s.buf := (rfl)
@[simp] theorem State.refuseNotInitialized_time (s : State) : (s.refuseNotInitialized).time = s.time := (rfl)
@[simp] theorem State.refuseNotInitialized_tidx (s : State) : (s.refuseNotInitialized).tidx = s.tidx := (rfl)
@[simp] theorem State.refuseNotInitialized_depth (s : State) : (s.refuseNotInitialized).depth = s.depth := (rfl)
@[simp] theorem State.refuseNotInitialized_mix (s : State) : (s.refuseNotInitialized).mix = s.mix := (rfl)
@[simp] theorem State.refuseNotInitialized_ramp (s : State) : (s.refuseNotInitialized).ramp = s.ramp := (rfl)
@[simp] theorem State.refuseNotInitialized_inited (s : State) : (s.refuseNotInitialized).inited = s.inited := (rfl)
@[simp] theorem State.refuseNotInitialized_fault (s : State) : (s.refuseNotInitialized).fault = s.fault := (rfl)
@[simp] theorem State.refuseNotInitialized_pending (s : State) : (s.refuseNotInitialized).pending = s.pending := (rfl)
@[simp] theorem State.refuseNotInitialized_resp (s : State) : (s.refuseNotInitialized).resp = some ⟨.refused, none⟩ := (rfl)
@[simp] theorem State.refuseNotInitialized_freeCount (s : State) : (s.refuseNotInitialized).freeCount = s.freeCount := (rfl)

/-! ### present -/

@[simp] theorem State.present_cfg (s : State) (c : Command) : (s.present c).cfg = s.cfg := (rfl)
@[simp] theorem State.present_buf (s : State) (c : Command) : (s.present c).buf = s.buf := (rfl)
@[simp] theorem State.present_time (s : State) (c : Command) : (s.present c).time = s.time := (rfl)
@[simp] theorem State.present_tidx (s : State) (c : Command) : (s.present c).tidx = s.tidx := (rfl)
@[simp] theorem State.present_depth (s : State) (c : Command) : (s.present c).depth = s.depth := (rfl)
@[simp] theorem State.present_mix (s : State) (c : Command) : (s.present c).mix = s.mix := (rfl)
@[simp] theorem State.present_ramp (s : State) (c : Command) : (s.present c).ramp = s.ramp := (rfl)
@[simp] theorem State.present_inited (s : State) (c : Command) : (s.present c).inited = s.inited := (rfl)
@[simp] theorem State.present_fault (s : State) (c : Command) : (s.present c).fault = s.fault := (rfl)
@[simp] theorem State.present_pending (s : State) (c : Command) : (s.present c).pending = c :: s.pending := (rfl)
@[simp] theorem State.present_resp (s : State) (c : Command) : (s.present c).resp = s.resp := (rfl)
@[simp] theorem State.present_freeCount (s : State) (c : Command) : (s.present c).freeCount = s.freeCount := (rfl)

/-! ### rampAdv -/

@[simp] theorem rampAdv_cfg (s : State) : (rampAdv s).cfg = s.cfg := (rfl)
@[simp] theorem rampAdv_buf (s : State) : (rampAdv s).buf = s.buf := (rfl)
@[simp] theorem rampAdv_time (s : State) : (rampAdv s).time = s.time := (rfl)
@[simp] theorem rampAdv_tidx (s : State) : (rampAdv s).tidx = s.tidx := (rfl)
@[simp] theorem rampAdv_depth (s : State) : (rampAdv s).depth = s.depth := (rfl)
@[simp] theorem rampAdv_mix (s : State) : (rampAdv s).mix = s.mix := (rfl)
@[simp] theorem rampAdv_ramp (s : State) : (rampAdv s).ramp = rampNext s.cfg s.ramp := (rfl)
@[simp] theorem rampAdv_inited (s : State) : (rampAdv s).inited = s.inited := (rfl)
@[simp] theorem rampAdv_fault (s : State) : (rampAdv s).fault = s.fault := (rfl)
@[simp] theorem rampAdv_pending (s : State) : (rampAdv s).pending = s.pending := (rfl)
@[simp] theorem rampAdv_resp (s : State) : (rampAdv s).resp = s.resp := (rfl)
@[simp] theorem rampAdv_freeCount (s : State) : (rampAdv s).freeCount = s.freeCount := (rfl)

/-! ### gainLoadSlot -/

@[simp] theorem gainLoadSlot_cfg (s : State) (i : Fin 6) : (gainLoadSlot s i).cfg = s.cfg := (rfl)
@[simp] theorem gainLoadSlot_buf (s : State) (i : Fin 6) : (gainLoadSlot s i).buf = s.buf.set (.comb i) { s.buffer (.comb i) with gain := (gtRow s.cfg (gainRow i s.tidx)).get i } := (rfl)
@[simp] theorem gainLoadSlot_time (s : State) (i : Fin 6) : (gainLoadSlot s i).time = s.time := (rfl)
@[simp] theorem gainLoadSlot_tidx (s : State) (i : Fin 6) : (gainLoadSlot s i).tidx = s.tidx := (rfl)
@[simp] theorem gainLoadSlot_depth (s : State) (i : Fin 6) : (gainLoadSlot s i).depth = s.depth := (rfl)
@[simp] theorem gainLoadSlot_mix (s : State) (i : Fin 6) : (gainLoadSlot s i).mix = s.mix := (rfl)
@[simp] theorem gainLoadSlot_ramp (s : State) (i : Fin 6) : (gainLoadSlot s i).ramp = s.ramp := (rfl)
@[simp] theorem gainLoadSlot_inited (s : State) (i : Fin 6) : (gainLoadSlot s i).inited = s.inited := (rfl)
@[simp] theorem gainLoadSlot_fault (s : State) (i : Fin 6) : (gainLoadSlot s i).fault = s.fault := (rfl)
@[simp] theorem gainLoadSlot_pending (s : State) (i : Fin 6) : (gainLoadSlot s i).pending = s.pending := (rfl)
@[simp] theorem gainLoadSlot_resp (s : State) (i : Fin 6) : (gainLoadSlot s i).resp = s.resp := (rfl)
@[simp] theorem gainLoadSlot_freeCount (s : State) (i : Fin 6) : (gainLoadSlot s i).freeCount = s.freeCount := (rfl)

/-! ### gainLoad -/

@[simp] theorem gainLoad_cfg (s : State) : (gainLoad s).cfg = s.cfg := (rfl)
@[simp] theorem gainLoad_time (s : State) : (gainLoad s).time = s.time := (rfl)
@[simp] theorem gainLoad_tidx (s : State) : (gainLoad s).tidx = s.tidx := (rfl)
@[simp] theorem gainLoad_depth (s : State) : (gainLoad s).depth = s.depth := (rfl)
@[simp] theorem gainLoad_mix (s : State) : (gainLoad s).mix = s.mix := (rfl)
@[simp] theorem gainLoad_ramp (s : State) : (gainLoad s).ramp = s.ramp := (rfl)
@[simp] theorem gainLoad_inited (s : State) : (gainLoad s).inited = s.inited := (rfl)
@[simp] theorem gainLoad_fault (s : State) : (gainLoad s).fault = s.fault := (rfl)
@[simp] theorem gainLoad_pending (s : State) : (gainLoad s).pending = s.pending := (rfl)
@[simp] theorem gainLoad_resp (s : State) : (gainLoad s).resp = s.resp := (rfl)
@[simp] theorem gainLoad_freeCount (s : State) : (gainLoad s).freeCount = s.freeCount := (rfl)

/-! ### loadApGains -/

@[simp] theorem loadApGains_cfg (s : State) : (loadApGains s).cfg = s.cfg := (rfl)
@[simp] theorem loadApGains_time (s : State) : (loadApGains s).time = s.time := (rfl)
@[simp] theorem loadApGains_tidx (s : State) : (loadApGains s).tidx = s.tidx := (rfl)
@[simp] theorem loadApGains_depth (s : State) : (loadApGains s).depth = s.depth := (rfl)
@[simp] theorem loadApGains_mix (s : State) : (loadApGains s).mix = s.mix := (rfl)
@[simp] theorem loadApGains_ramp (s : State) : (loadApGains s).ramp = s.ramp := (rfl)
@[simp] theorem loadApGains_inited (s : State) : (loadApGains s).inited = s.inited := (rfl)
@[simp] theorem loadApGains_fault (s : State) : (loadApGains s).fault = s.fault := (rfl)
@[simp] theorem loadApGains_pending (s : State) : (loadApGains s).pending = s.pending := (rfl)
@[simp] theorem loadApGains_resp (s : State) : (loadApGains s).resp = s.resp := (rfl)
@[simp] theorem loadApGains_freeCount (s : State) : (loadApGains s).freeCount = s.freeCount := (rfl)

/-! ### writeTime -/

@[simp] theorem State.writeTime_cfg (s : State) (t : Amplitude) : (s.writeTime t).cfg = s.cfg := (rfl)
@[simp] theorem State.writeTime_buf (s : State) (t : Amplitude) : (s.writeTime t).buf = s.buf := (rfl)
@[simp] theorem State.writeTime_time (s : State) (t : Amplitude) : (s.writeTime t).time = t := (rfl)
@[simp] theorem State.writeTime_tidx (s : State) (t : Amplitude) : (s.writeTime t).tidx = gtIndex t := (rfl)
@[simp] theorem State.writeTime_depth (s : State) (t : Amplitude) : (s.writeTime t).depth = s.depth := (rfl)
@[simp] theorem State.writeTime_mix (s : State) (t : Amplitude) : (s.writeTime t).mix = s.mix := (rfl)
@[simp] theorem State.writeTime_ramp (s : State) (t : Amplitude) : (s.writeTime t).ramp = s.ramp := (rfl)
@[simp] theorem State.writeTime_inited (s : State) (t : Amplitude) : (s.writeTime t).inited = s.inited := (rfl)
@[simp] theorem State.writeTime_fault (s : State) (t : Amplitude) : (s.writeTime t).fault = s.fault := (rfl)
@[simp] theorem State.writeTime_pending (s : State) (t : Amplitude) : (s.writeTime t).pending = s.pending := (rfl)
@[simp] theorem State.writeTime_resp (s : State) (t : Amplitude) : (s.writeTime t).resp = s.resp := (rfl)
@[simp] theorem State.writeTime_freeCount (s : State) (t : Amplitude) : (s.writeTime t).freeCount = s.freeCount := (rfl)

/-! ### writeDepth -/

@[simp] theorem State.writeDepth_cfg (s : State) (d : Amplitude) : (s.writeDepth d).cfg = s.cfg := (rfl)
@[simp] theorem State.writeDepth_buf (s : State) (d : Amplitude) : (s.writeDepth d).buf = s.buf := (rfl)
@[simp] theorem State.writeDepth_time (s : State) (d : Amplitude) : (s.writeDepth d).time = s.time := (rfl)
@[simp] theorem State.writeDepth_tidx (s : State) (d : Amplitude) : (s.writeDepth d).tidx = s.tidx := (rfl)
@[simp] theorem State.writeDepth_depth (s : State) (d : Amplitude) : (s.writeDepth d).depth = d := (rfl)
@[simp] theorem State.writeDepth_mix (s : State) (d : Amplitude) : (s.writeDepth d).mix = s.mix := (rfl)
@[simp] theorem State.writeDepth_ramp (s : State) (d : Amplitude) : (s.writeDepth d).ramp = s.ramp := (rfl)
@[simp] theorem State.writeDepth_inited (s : State) (d : Amplitude) : (s.writeDepth d).inited = s.inited := (rfl)
@[simp] theorem State.writeDepth_fault (s : State) (d : Amplitude) : (s.writeDepth d).fault = s.fault := (rfl)
@[simp] theorem State.writeDepth_pending (s : State) (d : Amplitude) : (s.writeDepth d).pending = s.pending := (rfl)
@[simp] theorem State.writeDepth_resp (s : State) (d : Amplitude) : (s.writeDepth d).resp = s.resp := (rfl)
@[simp] theorem State.writeDepth_freeCount (s : State) (d : Amplitude) : (s.writeDepth d).freeCount = s.freeCount := (rfl)

/-! ### writeMix -/

@[simp] theorem State.writeMix_cfg (s : State) (m : Amplitude) : (s.writeMix m).cfg = s.cfg := (rfl)
@[simp] theorem State.writeMix_buf (s : State) (m : Amplitude) : (s.writeMix m).buf = s.buf := (rfl)
@[simp] theorem State.writeMix_time (s : State) (m : Amplitude) : (s.writeMix m).time = s.time := (rfl)
@[simp] theorem State.writeMix_tidx (s : State) (m : Amplitude) : (s.writeMix m).tidx = s.tidx := (rfl)
@[simp] theorem State.writeMix_depth (s : State) (m : Amplitude) : (s.writeMix m).depth = s.depth := (rfl)
@[simp] theorem State.writeMix_mix (s : State) (m : Amplitude) : (s.writeMix m).mix = m := (rfl)
@[simp] theorem State.writeMix_ramp (s : State) (m : Amplitude) : (s.writeMix m).ramp = s.ramp := (rfl)
@[simp] theorem State.writeMix_inited (s : State) (m : Amplitude) : (s.writeMix m).inited = s.inited := (rfl)
@[simp] theorem State.writeMix_fault (s : State) (m : Amplitude) : (s.writeMix m).fault = s.fault := (rfl)
@[simp] theorem State.writeMix_pending (s : State) (m : Amplitude) : (s.writeMix m).pending = s.pending := (rfl)
@[simp] theorem State.writeMix_resp (s : State) (m : Amplitude) : (s.writeMix m).resp = s.resp := (rfl)
@[simp] theorem State.writeMix_freeCount (s : State) (m : Amplitude) : (s.writeMix m).freeCount = s.freeCount := (rfl)

/-! ### writeRamp -/

@[simp] theorem State.writeRamp_cfg (s : State) (r : Amplitude) : (s.writeRamp r).cfg = s.cfg := (rfl)
@[simp] theorem State.writeRamp_buf (s : State) (r : Amplitude) : (s.writeRamp r).buf = s.buf := (rfl)
@[simp] theorem State.writeRamp_time (s : State) (r : Amplitude) : (s.writeRamp r).time = s.time := (rfl)
@[simp] theorem State.writeRamp_tidx (s : State) (r : Amplitude) : (s.writeRamp r).tidx = s.tidx := (rfl)
@[simp] theorem State.writeRamp_depth (s : State) (r : Amplitude) : (s.writeRamp r).depth = s.depth := (rfl)
@[simp] theorem State.writeRamp_mix (s : State) (r : Amplitude) : (s.writeRamp r).mix = s.mix := (rfl)
@[simp] theorem State.writeRamp_ramp (s : State) (r : Amplitude) : (s.writeRamp r).ramp = r := (rfl)
@[simp] theorem State.writeRamp_inited (s : State) (r : Amplitude) : (s.writeRamp r).inited = s.inited := (rfl)
@[simp] theorem State.writeRamp_fault (s : State) (r : Amplitude) : (s.writeRamp r).fault = s.fault := (rfl)
@[simp] theorem State.writeRamp_pending (s : State) (r : Amplitude) : (s.writeRamp r).pending = s.pending := (rfl)
@[simp] theorem State.writeRamp_resp (s : State) (r : Amplitude) : (s.writeRamp r).resp = s.resp := (rfl)
@[simp] theorem State.writeRamp_freeCount (s : State) (r : Amplitude) : (s.writeRamp r).freeCount = s.freeCount := (rfl)

/-! ### markInited -/

@[simp] theorem State.markInited_cfg (s : State) : (s.markInited).cfg = s.cfg := (rfl)
@[simp] theorem State.markInited_buf (s : State) : (s.markInited).buf = s.buf := (rfl)
@[simp] theorem State.markInited_time (s : State) : (s.markInited).time = s.time := (rfl)
@[simp] theorem State.markInited_tidx (s : State) : (s.markInited).tidx = s.tidx := (rfl)
@[simp] theorem State.markInited_depth (s : State) : (s.markInited).depth = s.depth := (rfl)
@[simp] theorem State.markInited_mix (s : State) : (s.markInited).mix = s.mix := (rfl)
@[simp] theorem State.markInited_ramp (s : State) : (s.markInited).ramp = s.ramp := (rfl)
@[simp] theorem State.markInited_inited (s : State) : (s.markInited).inited = true := (rfl)
@[simp] theorem State.markInited_fault (s : State) : (s.markInited).fault = s.fault := (rfl)
@[simp] theorem State.markInited_pending (s : State) : (s.markInited).pending = s.pending := (rfl)
@[simp] theorem State.markInited_resp (s : State) : (s.markInited).resp = s.resp := (rfl)
@[simp] theorem State.markInited_freeCount (s : State) : (s.markInited).freeCount = s.freeCount := (rfl)

end Sys2Proof.Machine
end

