-- ==== Sys2Proof/Laws/DelayBuffer.lean ====
section
/-!
SUPPORT. The Delay Buffer operations, on one buffer and on the state (rules R102, R104, R106).
-/

namespace Sys2Proof.Machine

/-! ## One Delay Buffer -/

@[simp] theorem DelayBuffer.advWrite_cur (cap : Nat) (k : DelayBuffer) (v : Int) :
    (k.advWrite cap v).cur = cursorBack cap k.cur := rfl

@[simp] theorem DelayBuffer.advWrite_gain (cap : Nat) (k : DelayBuffer) (v : Int) :
    (k.advWrite cap v).gain = k.gain := rfl

@[simp] theorem DelayBuffer.advWrite_mem (cap : Nat) (k : DelayBuffer) (v : Int) :
    (k.advWrite cap v).mem = k.mem.write (cursorBack cap k.cur) v := rfl

@[simp] theorem DelayBuffer.reset_mem (k : DelayBuffer) : k.reset.mem = [] := rfl
@[simp] theorem DelayBuffer.reset_cur (k : DelayBuffer) : k.reset.cur = 0 := rfl
@[simp] theorem DelayBuffer.reset_gain (k : DelayBuffer) : k.reset.gain = k.gain := rfl

/-- A read of a clear buffer returns 0 (rule R102). -/
theorem DelayBuffer.read_of_clear (cap : Nat) {k : DelayBuffer} (h : k.mem = []) (d : Nat) : k.read cap d = 0 := by
  simp [DelayBuffer.read, h]

/-- A sample read is a signed 32-bit integer (rule R102). -/
theorem DelayBuffer.read_range (cap : Nat) (k : DelayBuffer) (d : Nat) :
    -2 ^ 31 ≤ k.read cap d ∧ k.read cap d < 2 ^ 31 := Memory.read_range _ _

/-- What a read gives after DB.ADVWR: the stored value at the new cursor's word, else the old word. -/
theorem DelayBuffer.read_advWrite (cap : Nat) {k : DelayBuffer} (hm : k.mem.wf = true) (v : Int) (d : Nat) :
    (k.advWrite cap v).read cap d =
      if (cursorBack cap k.cur + d) &&& maskOf cap = cursorBack cap k.cur then wrap32 v
      else k.mem.read ((cursorBack cap k.cur + d) &&& maskOf cap) := by
  simp only [DelayBuffer.read, DelayBuffer.advWrite_mem, DelayBuffer.index, DelayBuffer.advWrite_cur]
  exact Memory.read_write _ _ hm _

/-- DB.ADVWR keeps the canonical form. -/
theorem DelayBuffer.advWrite_wf (cap : Nat) {k : DelayBuffer} (hm : k.mem.wf = true) (v : Int) :
    (k.advWrite cap v).mem.wf = true := Memory.write_wf _ _ hm

/-- Storing 0 in a clear buffer keeps it clear. -/
theorem DelayBuffer.advWrite_clear (cap : Nat) {k : DelayBuffer} (h : k.mem = []) : (k.advWrite cap 0).mem = [] := by
  simp [h]

/-! ## The state -/

theorem State.buffer_setBuffer (s : State) (b c : Slot) (k : DelayBuffer) :
    (s.setBuffer b k).buffer c = if b = c then k else s.buffer c := by
  simp [State.buffer, Bank.get_set]

theorem State.buffer_dbAdvWr (s : State) (b c : Slot) (v : Int) :
    (s.dbAdvWr b v).buffer c = if b = c then (s.buffer b).advWrite (s.cap b) v else s.buffer c :=
  State.buffer_setBuffer ..

theorem State.buffer_dbReset (s : State) (b c : Slot) :
    (s.dbReset b).buffer c = if b = c then (s.buffer b).reset else s.buffer c := State.buffer_setBuffer ..

theorem State.buffer_setGain (s : State) (b c : Slot) (g : Coef) :
    (s.setGain b g).buffer c = if b = c then { s.buffer b with gain := g } else s.buffer c :=
  State.buffer_setBuffer ..

@[simp] theorem State.cap_dbAdvWr (s : State) (b c : Slot) (v : Int) : (s.dbAdvWr b v).cap c = s.cap c := rfl

@[simp] theorem State.gain_dbAdvWr (s : State) (b c : Slot) (v : Int) : (s.dbAdvWr b v).gain c = s.gain c := by
  simp only [State.gain, State.buffer_dbAdvWr]
  split
  · subst_vars; rfl
  · rfl

/-- A store in one buffer leaves what is read of another. -/
theorem State.dbRead_dbAdvWr_ne (s : State) {b c : Slot} (v : Int) (d : Nat) (h : b ≠ c) :
    (s.dbAdvWr b v).dbRead c d = s.dbRead c d := by
  simp only [State.dbRead, State.buffer_dbAdvWr, if_neg h, State.cap_dbAdvWr]

/-- DB.RESET on all ten buffers: each is cleared, its gain kept (rule R106). -/
theorem State.buffer_dbResetAll (s : State) (b : Slot) : s.dbResetAll.buffer b = (s.buffer b).reset := by
  cases b with
  | comb i => fin_cases i <;> simp [State.dbResetAll, Slot.all, State.buffer_dbReset]
  | ap i => fin_cases i <;> simp [State.dbResetAll, Slot.all, State.buffer_dbReset]

/-- Two states are equal when their buffers and their other fields are. -/
theorem State.ext_buffer {s t : State} (hb : ∀ b, s.buffer b = t.buffer b) (hr : { s with buf := t.buf } = t) : s = t := by
  rw [← hr]
  have : s.buf = t.buf := Bank.ext_get hb
  rw [← this]

end Sys2Proof.Machine
end

