-- ==== Sys2Proof/Laws/AllPass.lean ====
section
/-!
SUPPORT. What AP.CHAIN does, said once (rules R162, R164).
-/

namespace Sys2Proof.Machine

/-- The read of an all-pass stage, in the state before the chain. -/
def tapA (s : State) (i : Fin 4) : Int := s.dbRead (.ap i) (s.cfg.apoff.get i)

/-- The `feed_in` of a stage from its input, in the state before the chain (rule R162). -/
def feedIn (s : State) (i : Fin 4) (v : Int) : Int := v + scaleQ12 (tapA s i) (s.gain (.ap i))

/-- The `out` of a stage from its input, in the state before the chain (rule R162). -/
def stageOut (s : State) (i : Fin 4) (v : Int) : Int := tapA s i - scaleQ12 (feedIn s i v) (s.gain (.ap i))

/-- The input of stage i of the chain: `apin` for stage 0, the previous stage's `out` otherwise (rule R162). -/
def stageIn (s : State) (apin : Int) : Fin 4 → Int
  | 0 => apin
  | 1 => stageOut s 0 apin
  | 2 => stageOut s 1 (stageOut s 0 apin)
  | 3 => stageOut s 2 (stageOut s 1 (stageOut s 0 apin))

/-- AP.CHAIN: `wetfix` is the last stage's `out`, and each of A0..A3 stores its `feed_in` (rule R164). -/
theorem apChain_eq (apin : Int) (s : State) :
    apChain apin s =
      (stageOut s 3 (stageIn s apin 3),
       (((s.dbAdvWr (.ap 0) (feedIn s 0 (stageIn s apin 0))).dbAdvWr (.ap 1) (feedIn s 1 (stageIn s apin 1))).dbAdvWr
         (.ap 2) (feedIn s 2 (stageIn s apin 2))).dbAdvWr (.ap 3) (feedIn s 3 (stageIn s apin 3))) := by
  simp [apChain, apStage, stageIn, stageOut, feedIn, tapA, State.dbRead_dbAdvWr_ne]

/-- Every Delay Buffer after AP.CHAIN. -/
theorem apChain_buffer (apin : Int) (s : State) (b : Slot) :
    (apChain apin s).2.buffer b =
      match b with
      | .comb _ => s.buffer b
      | .ap i   => (s.buffer b).advWrite (s.cap b) (feedIn s i (stageIn s apin i)) := by
  rw [apChain_eq]
  cases b with
  | comb i => simp [State.buffer_dbAdvWr]
  | ap i => fin_cases i <;> simp [State.buffer_dbAdvWr]

/-! AP.CHAIN writes no field of the state but the buffers (rule R47). -/

@[simp] theorem apChain_cfg (apin : Int) (s : State) : (apChain apin s).2.cfg = s.cfg := by rw [apChain_eq]; rfl
@[simp] theorem apChain_time (apin : Int) (s : State) : (apChain apin s).2.time = s.time := by rw [apChain_eq]; rfl
@[simp] theorem apChain_tidx (apin : Int) (s : State) : (apChain apin s).2.tidx = s.tidx := by rw [apChain_eq]; rfl
@[simp] theorem apChain_depth (apin : Int) (s : State) : (apChain apin s).2.depth = s.depth := by rw [apChain_eq]; rfl
@[simp] theorem apChain_mix (apin : Int) (s : State) : (apChain apin s).2.mix = s.mix := by rw [apChain_eq]; rfl
@[simp] theorem apChain_ramp (apin : Int) (s : State) : (apChain apin s).2.ramp = s.ramp := by rw [apChain_eq]; rfl
@[simp] theorem apChain_inited (apin : Int) (s : State) : (apChain apin s).2.inited = s.inited := by rw [apChain_eq]; rfl
@[simp] theorem apChain_fault (apin : Int) (s : State) : (apChain apin s).2.fault = s.fault := by rw [apChain_eq]; rfl
@[simp] theorem apChain_pending (apin : Int) (s : State) : (apChain apin s).2.pending = s.pending := by rw [apChain_eq]; rfl
@[simp] theorem apChain_resp (apin : Int) (s : State) : (apChain apin s).2.resp = s.resp := by rw [apChain_eq]; rfl
@[simp] theorem apChain_freeCount (apin : Int) (s : State) : (apChain apin s).2.freeCount = s.freeCount := by rw [apChain_eq]; rfl

end Sys2Proof.Machine
end

