-- ==== Sys2Proof/Laws/CombNetwork.lean ====
section
/-!
SUPPORT. What COMB.A, COMB.B and GAIN.LOAD do, said once (rules R126, R140, R145).
-/

namespace Sys2Proof.Machine

theorem slotA_ne {k l : Fin 3} (h : k ≠ l) : slotA k ≠ slotA l := by
  revert h; revert k l; decide

theorem slotB_ne {k l : Fin 3} (h : k ≠ l) : slotB k ≠ slotB l := by
  revert h; revert k l; decide

theorem slotA_ne_slotB (k l : Fin 3) : slotA k ≠ slotB l := by revert k l; decide

/-- The pre-delay read of a stage-A slot, in the state before the stage. -/
def preA (s : State) (k : Fin 3) : Int := s.dbRead (slotA k) (s.cfg.pre.get (k.natAdd 3))

/-- The cross read of a stage-A slot for destination j, in the state before the stage. -/
def crossA (s : State) (k j : Fin 3) : Int := s.dbRead (slotA k) ((s.cfg.xoff.get k).get j)

/-- The pre-delay read of a stage-B slot, in the state before the stage. -/
def preB (s : State) (j : Fin 3) : Int := s.dbRead (slotB j) (s.cfg.pre.get (j.castAdd 3))

/-- The value that stage A hands to DB.ADVWR for its slot k. -/
def storeA (x : Int) (s : State) (k : Fin 3) : Int := x + scaleQ12 (preA s k) (s.gain (slotA k))

/-- The value that stage B hands to DB.ADVWR for its slot j. -/
def storeB (t : StageSums) (s : State) (j : Fin 3) : Int :=
  asr (t.sum1 + t.sum j) 2 + scaleQ12 (preB s j) (s.gain (slotB j))

theorem preA_dbAdvWr (s : State) {b : Slot} {k : Fin 3} (v : Int) (h : b ≠ slotA k) :
    preA (s.dbAdvWr b v) k = preA s k := State.dbRead_dbAdvWr_ne _ _ _ h

theorem crossA_dbAdvWr (s : State) {b : Slot} {k : Fin 3} (j : Fin 3) (v : Int) (h : b ≠ slotA k) :
    crossA (s.dbAdvWr b v) k j = crossA s k j := State.dbRead_dbAdvWr_ne _ _ _ h

theorem storeA_dbAdvWr (x : Int) (s : State) {b : Slot} {k : Fin 3} (v : Int) (h : b ≠ slotA k) :
    storeA x (s.dbAdvWr b v) k = storeA x s k := by
  rw [storeA, preA_dbAdvWr s v h, State.gain_dbAdvWr]; rfl

theorem preB_dbAdvWr (s : State) {b : Slot} {j : Fin 3} (v : Int) (h : b ≠ slotB j) :
    preB (s.dbAdvWr b v) j = preB s j := State.dbRead_dbAdvWr_ne _ _ _ h

theorem storeB_dbAdvWr (t : StageSums) (s : State) {b : Slot} {j : Fin 3} (v : Int) (h : b ≠ slotB j) :
    storeB t (s.dbAdvWr b v) j = storeB t s j := by
  rw [storeB, preB_dbAdvWr s v h, State.gain_dbAdvWr]; rfl

theorem combASlot_eq (x a p q r : Int) (s : State) (k : Fin 3) :
    combASlot x (⟨a, p, q, r⟩, s) k =
      (⟨a + preA s k, p + crossA s k 0, q + crossA s k 1, r + crossA s k 2⟩,
       s.dbAdvWr (slotA k) (storeA x s k)) := rfl

theorem combBSlot_eq (t : StageSums) (a : Int) (s : State) (j : Fin 3) :
    combBSlot t (a, s) j = (a + preB s j, s.dbAdvWr (slotB j) (storeB t s j)) := rfl

/-- COMB.A: sums of reads of the state before the stage, and one store in each of C3, C4, C5 (rule R140). -/
theorem combA_eq (x : Int) (s : State) :
    combA x s =
      (⟨preA s 0 + preA s 1 + preA s 2,
        crossA s 0 0 + crossA s 1 0 + crossA s 2 0,
        crossA s 0 1 + crossA s 1 1 + crossA s 2 1,
        crossA s 0 2 + crossA s 1 2 + crossA s 2 2⟩,
       ((s.dbAdvWr (slotA 0) (storeA x s 0)).dbAdvWr (slotA 1) (storeA x s 1)).dbAdvWr (slotA 2) (storeA x s 2)) := by
  have h01 : slotA 0 ≠ slotA 1 := by decide
  have h02 : slotA 0 ≠ slotA 2 := by decide
  have h12 : slotA 1 ≠ slotA 2 := by decide
  simp only [combA, List.foldl_cons, List.foldl_nil, combASlot_eq, preA_dbAdvWr, crossA_dbAdvWr, storeA_dbAdvWr,
    h01, h02, h12, ne_eq, not_false_eq_true, zero_add]

/-- COMB.B: a sum of reads of the state before the stage, and one store in each of C0, C1, C2 (rule R145). -/
theorem combB_eq (t : StageSums) (s : State) :
    combB t s =
      (preB s 0 + preB s 1 + preB s 2,
       ((s.dbAdvWr (slotB 0) (storeB t s 0)).dbAdvWr (slotB 1) (storeB t s 1)).dbAdvWr (slotB 2) (storeB t s 2)) := by
  have h01 : slotB 0 ≠ slotB 1 := by decide
  have h02 : slotB 0 ≠ slotB 2 := by decide
  have h12 : slotB 1 ≠ slotB 2 := by decide
  simp only [combB, List.foldl_cons, List.foldl_nil, combBSlot_eq, preB_dbAdvWr, storeB_dbAdvWr,
    h01, h02, h12, ne_eq, not_false_eq_true, zero_add]

/-- Every Delay Buffer after COMB.A. -/
theorem combA_buffer (x : Int) (s : State) (b : Slot) :
    (combA x s).2.buffer b =
      if b = slotA 0 then (s.buffer b).advWrite (s.cap b) (storeA x s 0)
      else if b = slotA 1 then (s.buffer b).advWrite (s.cap b) (storeA x s 1)
      else if b = slotA 2 then (s.buffer b).advWrite (s.cap b) (storeA x s 2)
      else s.buffer b := by
  rw [combA_eq]
  simp only [State.buffer_dbAdvWr, State.cap_dbAdvWr]
  by_cases h0 : b = slotA 0
  · subst h0; simp [slotA_ne]
  · by_cases h1 : b = slotA 1
    · subst h1; simp [slotA_ne]
    · by_cases h2 : b = slotA 2
      · subst h2; simp [slotA_ne]
      · simp [h0, h1, h2, Ne.symm]

/-- Every Delay Buffer after COMB.B. -/
theorem combB_buffer (t : StageSums) (s : State) (b : Slot) :
    (combB t s).2.buffer b =
      if b = slotB 0 then (s.buffer b).advWrite (s.cap b) (storeB t s 0)
      else if b = slotB 1 then (s.buffer b).advWrite (s.cap b) (storeB t s 1)
      else if b = slotB 2 then (s.buffer b).advWrite (s.cap b) (storeB t s 2)
      else s.buffer b := by
  rw [combB_eq]
  simp only [State.buffer_dbAdvWr, State.cap_dbAdvWr]
  by_cases h0 : b = slotB 0
  · subst h0; simp [slotB_ne]
  · by_cases h1 : b = slotB 1
    · subst h1; simp [slotB_ne]
    · by_cases h2 : b = slotB 2
      · subst h2; simp [slotB_ne]
      · simp [h0, h1, h2, Ne.symm]

/-! COMB.A and COMB.B write no field of the state but the buffers (rule R47). -/

@[simp] theorem combA_cfg (x : Int) (s : State) : (combA x s).2.cfg = s.cfg := by rw [combA_eq]; rfl
@[simp] theorem combA_time (x : Int) (s : State) : (combA x s).2.time = s.time := by rw [combA_eq]; rfl
@[simp] theorem combA_tidx (x : Int) (s : State) : (combA x s).2.tidx = s.tidx := by rw [combA_eq]; rfl
@[simp] theorem combA_depth (x : Int) (s : State) : (combA x s).2.depth = s.depth := by rw [combA_eq]; rfl
@[simp] theorem combA_mix (x : Int) (s : State) : (combA x s).2.mix = s.mix := by rw [combA_eq]; rfl
@[simp] theorem combA_ramp (x : Int) (s : State) : (combA x s).2.ramp = s.ramp := by rw [combA_eq]; rfl
@[simp] theorem combA_inited (x : Int) (s : State) : (combA x s).2.inited = s.inited := by rw [combA_eq]; rfl
@[simp] theorem combA_fault (x : Int) (s : State) : (combA x s).2.fault = s.fault := by rw [combA_eq]; rfl
@[simp] theorem combA_pending (x : Int) (s : State) : (combA x s).2.pending = s.pending := by rw [combA_eq]; rfl
@[simp] theorem combA_resp (x : Int) (s : State) : (combA x s).2.resp = s.resp := by rw [combA_eq]; rfl
@[simp] theorem combA_freeCount (x : Int) (s : State) : (combA x s).2.freeCount = s.freeCount := by rw [combA_eq]; rfl

@[simp] theorem combB_cfg (t : StageSums) (s : State) : (combB t s).2.cfg = s.cfg := by rw [combB_eq]; rfl
@[simp] theorem combB_time (t : StageSums) (s : State) : (combB t s).2.time = s.time := by rw [combB_eq]; rfl
@[simp] theorem combB_tidx (t : StageSums) (s : State) : (combB t s).2.tidx = s.tidx := by rw [combB_eq]; rfl
@[simp] theorem combB_depth (t : StageSums) (s : State) : (combB t s).2.depth = s.depth := by rw [combB_eq]; rfl
@[simp] theorem combB_mix (t : StageSums) (s : State) : (combB t s).2.mix = s.mix := by rw [combB_eq]; rfl
@[simp] theorem combB_ramp (t : StageSums) (s : State) : (combB t s).2.ramp = s.ramp := by rw [combB_eq]; rfl
@[simp] theorem combB_inited (t : StageSums) (s : State) : (combB t s).2.inited = s.inited := by rw [combB_eq]; rfl
@[simp] theorem combB_fault (t : StageSums) (s : State) : (combB t s).2.fault = s.fault := by rw [combB_eq]; rfl
@[simp] theorem combB_pending (t : StageSums) (s : State) : (combB t s).2.pending = s.pending := by rw [combB_eq]; rfl
@[simp] theorem combB_resp (t : StageSums) (s : State) : (combB t s).2.resp = s.resp := by rw [combB_eq]; rfl
@[simp] theorem combB_freeCount (t : StageSums) (s : State) : (combB t s).2.freeCount = s.freeCount := by rw [combB_eq]; rfl

/-- GAIN.LOAD: the gain of each comb slot from the table, everything else of the buffers as before (rule R126). -/
theorem gainLoad_buffer (s : State) (b : Slot) :
    (gainLoad s).buffer b =
      match b with
      | .comb i => { s.buffer b with gain := (gtRow s.cfg (gainRow i s.tidx)).get i }
      | .ap _   => s.buffer b := by
  cases b with
  | comb i => fin_cases i <;> simp [gainLoad, gainLoadSlot, State.buffer_setGain]
  | ap i => simp [gainLoad, gainLoadSlot, State.buffer_setGain]

/-- The four all-pass gains that INIT writes. -/
theorem loadApGains_buffer (s : State) (b : Slot) :
    (loadApGains s).buffer b =
      match b with
      | .comb _ => s.buffer b
      | .ap _   => { s.buffer b with gain := s.cfg.apGain } := by
  cases b with
  | comb i => simp [loadApGains, State.buffer_setGain]
  | ap i => fin_cases i <;> simp [loadApGains, State.buffer_setGain]

end Sys2Proof.Machine
end

