-- ==== Sys2Proof/Laws/Commands.lean ====
section
/-!
SUPPORT. What a frame and a command do, said once: the buffers and the response after a frame, the registers after INIT,
PARAM time and RESUME, and the inversion of `exec`.
-/

namespace Sys2Proof.Machine

/-! ## One frame -/

/-- The input sample x of a frame (rule R202). -/
def frameX (v : Amplitude) (s : State) : Int := (sampleIn (rampedInput v s) s).1

/-- The accumulators of stage A, from the state before the frame (rule R140). -/
def frameSums (s : State) : StageSums :=
  ⟨preA s 0 + preA s 1 + preA s 2,
   crossA s 0 0 + crossA s 1 0 + crossA s 2 0,
   crossA s 0 1 + crossA s 1 1 + crossA s 2 1,
   crossA s 0 2 + crossA s 1 2 + crossA s 2 2⟩

/-- `apin` of a frame, from the state before it (rules R145, R150). -/
def frameApin (s : State) : Int := depthScale s.depth (preB s 0 + preB s 1 + preB s 2)

/-- `wetfix` of a frame, from the state before it (rule R164). -/
def frameWet (s : State) : Int := stageOut s 3 (stageIn s (frameApin s) 3)

/-- The output amplitude of a frame (rules R176, R204). -/
def frameOut (v : Amplitude) (s : State) : Amplitude :=
  limit s.cfg s.cfg.ceil (mixOut s.cfg s.mix v (rampedInput v s) (frameWet s))

/-- The value a frame hands to DB.ADVWR for each slot, from the state before it. -/
def frameStore (v : Amplitude) (s : State) : Slot → Int
  | .comb 0 => storeB (frameSums s) s 0
  | .comb 1 => storeB (frameSums s) s 1
  | .comb 2 => storeB (frameSums s) s 2
  | .comb 3 => storeA (frameX v s) s 0
  | .comb 4 => storeA (frameX v s) s 1
  | .comb 5 => storeA (frameX v s) s 2
  | .ap i   => feedIn s i (stageIn s (frameApin s) i)

/-! The conversion of IN.SCALE writes no field of the state but the count of free samples (rule R202). -/

@[simp] theorem sampleIn_buf (a : Amplitude) (s : State) : (sampleIn a s).2.buf = s.buf := by unfold sampleIn; split <;> rfl
@[simp] theorem sampleIn_cfg (a : Amplitude) (s : State) : (sampleIn a s).2.cfg = s.cfg := by unfold sampleIn; split <;> rfl
@[simp] theorem sampleIn_time (a : Amplitude) (s : State) : (sampleIn a s).2.time = s.time := by unfold sampleIn; split <;> rfl
@[simp] theorem sampleIn_tidx (a : Amplitude) (s : State) : (sampleIn a s).2.tidx = s.tidx := by unfold sampleIn; split <;> rfl
@[simp] theorem sampleIn_depth (a : Amplitude) (s : State) : (sampleIn a s).2.depth = s.depth := by unfold sampleIn; split <;> rfl
@[simp] theorem sampleIn_mix (a : Amplitude) (s : State) : (sampleIn a s).2.mix = s.mix := by unfold sampleIn; split <;> rfl
@[simp] theorem sampleIn_ramp (a : Amplitude) (s : State) : (sampleIn a s).2.ramp = s.ramp := by unfold sampleIn; split <;> rfl
@[simp] theorem sampleIn_inited (a : Amplitude) (s : State) : (sampleIn a s).2.inited = s.inited := by unfold sampleIn; split <;> rfl
@[simp] theorem sampleIn_fault (a : Amplitude) (s : State) : (sampleIn a s).2.fault = s.fault := by unfold sampleIn; split <;> rfl
@[simp] theorem sampleIn_pending (a : Amplitude) (s : State) : (sampleIn a s).2.pending = s.pending := by unfold sampleIn; split <;> rfl
@[simp] theorem sampleIn_resp (a : Amplitude) (s : State) : (sampleIn a s).2.resp = s.resp := by unfold sampleIn; split <;> rfl

theorem sampleIn_freeCount (a : Amplitude) (s : State) :
    (sampleIn a s).2.freeCount = if s.cfg.InContract a then s.freeCount else s.freeCount + 1 := by
  unfold sampleIn; split <;> rfl

/-- A state with another count of free samples reads, scales and stores the same. -/
theorem buffer_of_sampleIn (a : Amplitude) (s : State) (b : Slot) : (sampleIn a s).2.buffer b = s.buffer b := by
  simp [State.buffer]

theorem preA_congr {s t : State} (hb : ∀ k, t.buffer (slotA k) = s.buffer (slotA k)) (hc : t.cfg = s.cfg) (k : Fin 3) :
    preA t k = preA s k := by simp only [preA, State.dbRead, State.cap, hb, hc]

theorem crossA_congr {s t : State} (hb : ∀ k, t.buffer (slotA k) = s.buffer (slotA k)) (hc : t.cfg = s.cfg)
    (k j : Fin 3) : crossA t k j = crossA s k j := by simp only [crossA, State.dbRead, State.cap, hb, hc]

theorem preB_congr {s t : State} (hb : ∀ k, t.buffer (slotB k) = s.buffer (slotB k)) (hc : t.cfg = s.cfg) (k : Fin 3) :
    preB t k = preB s k := by simp only [preB, State.dbRead, State.cap, hb, hc]

theorem storeA_congr (x : Int) {s t : State} (hb : ∀ k, t.buffer (slotA k) = s.buffer (slotA k)) (hc : t.cfg = s.cfg)
    (k : Fin 3) : storeA x t k = storeA x s k := by simp only [storeA, preA_congr hb hc, State.gain, hb]

theorem storeB_congr (u : StageSums) {s t : State} (hb : ∀ k, t.buffer (slotB k) = s.buffer (slotB k))
    (hc : t.cfg = s.cfg) (k : Fin 3) : storeB u t k = storeB u s k := by
  simp only [storeB, preB_congr hb hc, State.gain, hb]

theorem tapA_congr {s t : State} (hb : ∀ i, t.buffer (.ap i) = s.buffer (.ap i)) (hc : t.cfg = s.cfg) (i : Fin 4) :
    tapA t i = tapA s i := by simp only [tapA, State.dbRead, State.cap, hb, hc]

theorem feedIn_congr {s t : State} (hb : ∀ i, t.buffer (.ap i) = s.buffer (.ap i)) (hc : t.cfg = s.cfg) (i : Fin 4)
    (v : Int) : feedIn t i v = feedIn s i v := by simp only [feedIn, tapA_congr hb hc, State.gain, hb]

theorem stageOut_congr {s t : State} (hb : ∀ i, t.buffer (.ap i) = s.buffer (.ap i)) (hc : t.cfg = s.cfg) (i : Fin 4)
    (v : Int) : stageOut t i v = stageOut s i v := by
  simp only [stageOut, tapA_congr hb hc, feedIn_congr hb hc, State.gain, hb]

theorem stageIn_congr {s t : State} (hb : ∀ i, t.buffer (.ap i) = s.buffer (.ap i)) (hc : t.cfg = s.cfg) (v : Int)
    (i : Fin 4) : stageIn t v i = stageIn s v i := by
  fin_cases i <;> simp [stageIn, stageOut_congr hb hc]

theorem combA_buffer_slotB (x : Int) (s : State) (j : Fin 3) : (combA x s).2.buffer (slotB j) = s.buffer (slotB j) := by
  rw [combA_buffer]; simp [(slotA_ne_slotB _ _).symm]

theorem combA_buffer_ap (x : Int) (s : State) (i : Fin 4) : (combA x s).2.buffer (.ap i) = s.buffer (.ap i) := by
  rw [combA_buffer]; simp [slotA]

theorem combB_buffer_ap (t : StageSums) (s : State) (i : Fin 4) : (combB t s).2.buffer (.ap i) = s.buffer (.ap i) := by
  rw [combB_buffer]; simp [slotB]

/-- The state after the two comb stages of a frame that begins in `s`. -/
def afterComb (v : Amplitude) (s : State) : State :=
  (combB (frameSums s) (combA (frameX v s) (sampleIn (rampedInput v s) s).2).2).2

theorem afterComb_cfg (v : Amplitude) (s : State) : (afterComb v s).cfg = s.cfg := by
  simp [afterComb]

theorem afterComb_ap (v : Amplitude) (s : State) (i : Fin 4) : (afterComb v s).buffer (.ap i) = s.buffer (.ap i) := by
  rw [afterComb, combB_buffer_ap, combA_buffer_ap, buffer_of_sampleIn]

theorem combStages_eq (v : Amplitude) (s : State) :
    combStages (frameX v s) (sampleIn (rampedInput v s) s).2 = (preB s 0 + preB s 1 + preB s 2, afterComb v s) := by
  have hq : ∀ b, (sampleIn (rampedInput v s) s).2.buffer b = s.buffer b := buffer_of_sampleIn _ s
  have hqc : (sampleIn (rampedInput v s) s).2.cfg = s.cfg := by simp
  have hA1 : (combA (frameX v s) (sampleIn (rampedInput v s) s).2).1 = frameSums s := by
    rw [combA_eq]
    simp only [frameSums, preA_congr (fun k => hq (slotA k)) hqc, crossA_congr (fun k => hq (slotA k)) hqc]
  have hb : ∀ j, (combA (frameX v s) (sampleIn (rampedInput v s) s).2).2.buffer (slotB j) = s.buffer (slotB j) :=
    fun j => by rw [combA_buffer_slotB, hq]
  unfold combStages
  rw [hA1]
  refine Prod.ext ?_ rfl
  rw [combB_eq]
  simp only [preB_congr hb ((combA_cfg _ _).trans hqc)]

theorem diffuse_eq (v : Amplitude) (s : State) :
    diffuse (preB s 0 + preB s 1 + preB s 2, afterComb v s) =
      (frameWet s, (apChain (frameApin s) (afterComb v s)).2) := by
  have hd : (afterComb v s).depth = s.depth := by simp [afterComb]
  have h : diffuse (preB s 0 + preB s 1 + preB s 2, afterComb v s) =
      apChain (depthScale (afterComb v s).depth (preB s 0 + preB s 1 + preB s 2)) (afterComb v s) := rfl
  rw [h, hd, ← frameApin]
  refine Prod.ext ?_ rfl
  rw [apChain_eq]
  simp only [frameWet, stageOut_congr (afterComb_ap v s) (afterComb_cfg v s),
    stageIn_congr (afterComb_ap v s) (afterComb_cfg v s)]

theorem frame_def (v : Amplitude) (s : State) :
    frame v s = emit v (rampedInput v s) (diffuse (combStages (frameX v s) (sampleIn (rampedInput v s) s).2)) := rfl

/-! The end of a frame, field by field (rules R204 to R208). -/

@[simp] theorem emit_cfg (v a : Amplitude) (w : Int) (t : State) : (emit v a (w, t)).cfg = t.cfg := (rfl)
@[simp] theorem emit_buf (v a : Amplitude) (w : Int) (t : State) : (emit v a (w, t)).buf = t.buf := (rfl)
@[simp] theorem emit_time (v a : Amplitude) (w : Int) (t : State) : (emit v a (w, t)).time = t.time := (rfl)
@[simp] theorem emit_tidx (v a : Amplitude) (w : Int) (t : State) : (emit v a (w, t)).tidx = t.tidx := (rfl)
@[simp] theorem emit_depth (v a : Amplitude) (w : Int) (t : State) : (emit v a (w, t)).depth = t.depth := (rfl)
@[simp] theorem emit_mix (v a : Amplitude) (w : Int) (t : State) : (emit v a (w, t)).mix = t.mix := (rfl)
@[simp] theorem emit_ramp (v a : Amplitude) (w : Int) (t : State) : (emit v a (w, t)).ramp = rampNext t.cfg t.ramp := (rfl)
@[simp] theorem emit_inited (v a : Amplitude) (w : Int) (t : State) : (emit v a (w, t)).inited = t.inited := (rfl)
@[simp] theorem emit_fault (v a : Amplitude) (w : Int) (t : State) : (emit v a (w, t)).fault = t.fault := (rfl)
@[simp] theorem emit_pending (v a : Amplitude) (w : Int) (t : State) : (emit v a (w, t)).pending = t.pending := (rfl)
@[simp] theorem emit_resp (v a : Amplitude) (w : Int) (t : State) : (emit v a (w, t)).resp = some ⟨.done, some (dupOut (limit t.cfg t.cfg.ceil (mixOut t.cfg t.mix v a w)))⟩ := (rfl)
@[simp] theorem emit_freeCount (v a : Amplitude) (w : Int) (t : State) : (emit v a (w, t)).freeCount = t.freeCount := (rfl)

theorem frame_eq (v : Amplitude) (s : State) :
    frame v s = emit v (rampedInput v s) (frameWet s, (apChain (frameApin s) (afterComb v s)).2) := by
  rw [frame_def, combStages_eq, diffuse_eq]

/-! A frame in closed form: all of the state after it but the buffers (rules R47, R200). -/

@[simp] theorem frame_cfg (v : Amplitude) (s : State) :
    (frame v s).cfg = s.cfg := by
  simp [frame_eq, afterComb]

@[simp] theorem frame_time (v : Amplitude) (s : State) :
    (frame v s).time = s.time := by
  simp [frame_eq, afterComb]

@[simp] theorem frame_tidx (v : Amplitude) (s : State) :
    (frame v s).tidx = s.tidx := by
  simp [frame_eq, afterComb]

@[simp] theorem frame_depth (v : Amplitude) (s : State) :
    (frame v s).depth = s.depth := by
  simp [frame_eq, afterComb]

@[simp] theorem frame_mix (v : Amplitude) (s : State) :
    (frame v s).mix = s.mix := by
  simp [frame_eq, afterComb]

@[simp] theorem frame_ramp (v : Amplitude) (s : State) :
    (frame v s).ramp = rampNext s.cfg s.ramp := by
  simp [frame_eq, afterComb]

@[simp] theorem frame_inited (v : Amplitude) (s : State) :
    (frame v s).inited = s.inited := by
  simp [frame_eq, afterComb]

@[simp] theorem frame_fault (v : Amplitude) (s : State) :
    (frame v s).fault = s.fault := by
  simp [frame_eq, afterComb]

@[simp] theorem frame_pending (v : Amplitude) (s : State) :
    (frame v s).pending = s.pending := by
  simp [frame_eq, afterComb]

@[simp] theorem frame_resp (v : Amplitude) (s : State) :
    (frame v s).resp = some ⟨.done, some ⟨frameOut v s, frameOut v s⟩⟩ := by
  simp [frame_eq, frameOut, dupOut, afterComb]

@[simp] theorem frame_freeCount (v : Amplitude) (s : State) :
    (frame v s).freeCount = if s.cfg.InContract (rampedInput v s) then s.freeCount else s.freeCount + 1 := by
  simp [frame_eq, sampleIn_freeCount, afterComb]

/-- A frame in closed form: every Delay Buffer is advanced and written once (rules R73, R200). -/
theorem frame_buffer (v : Amplitude) (s : State) (b : Slot) :
    (frame v s).buffer b = (s.buffer b).advWrite (s.cap b) (frameStore v s b) := by
  have h0 : (frame v s).buffer b = (apChain (frameApin s) (afterComb v s)).2.buffer b := by
    simp only [State.buffer, frame_eq, emit_buf]
  have hq : ∀ b, (sampleIn (rampedInput v s) s).2.buffer b = s.buffer b := buffer_of_sampleIn _ s
  have hqc : (sampleIn (rampedInput v s) s).2.cfg = s.cfg := by simp
  rw [h0, apChain_buffer]
  cases b with
  | ap i =>
    simp only [afterComb_ap, feedIn_congr (afterComb_ap v s) (afterComb_cfg v s),
      stageIn_congr (afterComb_ap v s) (afterComb_cfg v s), State.cap, afterComb_cfg]
    rfl
  | comb i =>
    have hA : ∀ j, (combA (frameX v s) (sampleIn (rampedInput v s) s).2).2.buffer (slotB j) = s.buffer (slotB j) :=
      fun j => by rw [combA_buffer_slotB, hq]
    have hAc : (combA (frameX v s) (sampleIn (rampedInput v s) s).2).2.cfg = s.cfg := by simp
    simp only [afterComb, combB_buffer, combA_buffer, hq, storeB_congr _ hA hAc,
      storeA_congr _ (fun k => hq (slotA k)) hqc, State.cap, hqc, hAc]
    fin_cases i <;> simp [slotA, slotB, frameStore]

/-! ## INIT, PARAM time, RESUME -/

@[simp] theorem initRegisters_cfg (s : State) : (initRegisters s).cfg = s.cfg := by simp [initRegisters]
@[simp] theorem initRegisters_time (s : State) : (initRegisters s).time = 0 := by simp [initRegisters]
@[simp] theorem initRegisters_tidx (s : State) : (initRegisters s).tidx = gtIndex 0 := by simp [initRegisters]
@[simp] theorem initRegisters_depth (s : State) : (initRegisters s).depth = 0 := by simp [initRegisters]
@[simp] theorem initRegisters_mix (s : State) : (initRegisters s).mix = 1 / 2 := by simp [initRegisters]
@[simp] theorem initRegisters_ramp (s : State) : (initRegisters s).ramp = 0 := by simp [initRegisters]
@[simp] theorem initRegisters_inited (s : State) : (initRegisters s).inited = true := by simp [initRegisters]
@[simp] theorem initRegisters_fault (s : State) : (initRegisters s).fault = s.fault := by simp [initRegisters]
@[simp] theorem initRegisters_pending (s : State) : (initRegisters s).pending = s.pending := by simp [initRegisters]
@[simp] theorem initRegisters_resp (s : State) : (initRegisters s).resp = s.resp := by simp [initRegisters]
@[simp] theorem initRegisters_freeCount (s : State) : (initRegisters s).freeCount = s.freeCount := by simp [initRegisters]

@[simp] theorem setTime_cfg (v : Amplitude) (s : State) : (setTime v s).cfg = s.cfg := by simp [setTime]
@[simp] theorem setTime_time (v : Amplitude) (s : State) : (setTime v s).time = clip01 v := by simp [setTime]
@[simp] theorem setTime_tidx (v : Amplitude) (s : State) : (setTime v s).tidx = gtIndex (clip01 v) := by simp [setTime]
@[simp] theorem setTime_depth (v : Amplitude) (s : State) : (setTime v s).depth = s.depth := by simp [setTime]
@[simp] theorem setTime_mix (v : Amplitude) (s : State) : (setTime v s).mix = s.mix := by simp [setTime]
@[simp] theorem setTime_ramp (v : Amplitude) (s : State) : (setTime v s).ramp = s.ramp := by simp [setTime]
@[simp] theorem setTime_inited (v : Amplitude) (s : State) : (setTime v s).inited = s.inited := by simp [setTime]
@[simp] theorem setTime_fault (v : Amplitude) (s : State) : (setTime v s).fault = s.fault := by simp [setTime]
@[simp] theorem setTime_pending (v : Amplitude) (s : State) : (setTime v s).pending = s.pending := by simp [setTime]
@[simp] theorem setTime_resp (v : Amplitude) (s : State) : (setTime v s).resp = s.resp := by simp [setTime]
@[simp] theorem setTime_freeCount (v : Amplitude) (s : State) : (setTime v s).freeCount = s.freeCount := by simp [setTime]

/-! A write of a parameter register or flag leaves every Delay Buffer. -/

@[simp] theorem State.buffer_writeTime (s : State) (t : Amplitude) (b : Slot) : (s.writeTime t).buffer b = s.buffer b := (rfl)
@[simp] theorem State.buffer_writeDepth (s : State) (d : Amplitude) (b : Slot) : (s.writeDepth d).buffer b = s.buffer b := (rfl)
@[simp] theorem State.buffer_writeMix (s : State) (m : Amplitude) (b : Slot) : (s.writeMix m).buffer b = s.buffer b := (rfl)
@[simp] theorem State.buffer_writeRamp (s : State) (r : Amplitude) (b : Slot) : (s.writeRamp r).buffer b = s.buffer b := (rfl)
@[simp] theorem State.buffer_markInited (s : State) (b : Slot) : (s.markInited).buffer b = s.buffer b := (rfl)
@[simp] theorem State.buffer_endDone (s : State) (b : Slot) : (s.endDone).buffer b = s.buffer b := (rfl)
@[simp] theorem State.buffer_refuseNotInitialized (s : State) (b : Slot) : (s.refuseNotInitialized).buffer b = s.buffer b := (rfl)
@[simp] theorem State.buffer_raiseConfigFatal (s : State) (o b : Slot) : (s.raiseConfigFatal o).buffer b = s.buffer b := (rfl)

/-- Every Delay Buffer after INIT: clear, cursor 0, its gain loaded (rules R46, R210). -/
theorem initRegisters_buffer (s : State) (b : Slot) :
    (initRegisters s).buffer b =
      match b with
      | .comb i => ⟨[], 0, (gtRow s.cfg (gainRow i (gtIndex 0))).get i⟩
      | .ap _   => ⟨[], 0, s.cfg.apGain⟩ := by
  cases b <;> simp [initRegisters, loadApGains_buffer, gainLoad_buffer, State.buffer_dbResetAll]

/-- Every Delay Buffer after PARAM time: the comb gains loaded, the rest as before (rules R126, R212). -/
theorem setTime_buffer (v : Amplitude) (s : State) (b : Slot) :
    (setTime v s).buffer b =
      match b with
      | .comb i => { s.buffer b with gain := (gtRow s.cfg (gainRow i (gtIndex (clip01 v)))).get i }
      | .ap _   => s.buffer b := by
  cases b <;> simp [setTime, gainLoad_buffer]

/-! ## The meanings -/

theorem State.ready_iff (s : State) : s.ready = true ↔ s.fault = false ∧ s.inited = true := by
  simp [State.ready]

theorem whenReady_of_ready {s : State} (h : s.ready = true) (run : Host.Outcome State Fault Refusal) :
    whenReady s run = run := by simp [whenReady, h]

theorem whenReady_of_not_ready {s : State} (h : s.ready = false) (run : Host.Outcome State Fault Refusal) :
    whenReady s run = .next s.refuseNotInitialized := by simp [whenReady, h]

@[simp] theorem withAmplitude_finite (q : Amplitude) (run : Amplitude → Host.Outcome State Fault Refusal) :
    withAmplitude (.finite q) run = run q := rfl

@[simp] theorem withAmplitude_notFinite (run : Amplitude → Host.Outcome State Fault Refusal) :
    withAmplitude .notFinite run = .refused .operandNotFinite := rfl

/-- What a ready block does: the effect of each command but INIT on its own registers. -/
inductive Ran (s : State) : Instr → State → Prop where
  | proc (v : Amplitude) : Ran s (.proc (.finite v)) (frame v s)
  | time (v : Amplitude) : Ran s (.paramTime (.finite v)) (setTime v s).endDone
  | depth (v : Amplitude) : Ran s (.paramDepth (.finite v)) (s.writeDepth (clip01 v)).endDone
  | mix (v : Amplitude) : Ran s (.paramMix (.finite v)) (s.writeMix (mixRemap s.cfg.num (clip01 v))).endDone
  | other (n : BitVec 8) (v : Din) : Ran s (.paramOther n v) s.endDone
  | resume : Ran s .resume (s.dbResetAll.writeRamp 0).endDone

/-- Everything a command that answers a next state can have done (rules R210 to R220, R231, R232). -/
inductive Did (s : State) : Instr → State → Prop where
  /-- NotInitialized: FAULT is set, or INITED is not and the command is not INIT. -/
  | refused (i : Instr) (h : s.fault = true ∨ (s.inited = false ∧ i ≠ .init)) : Did s i s.refuseNotInitialized
  /-- ConfigFatal: INIT found a capacity that is no power of two. -/
  | fatal (b : Slot) (hf : s.fault = false) (h : s.cfg.firstOffender = some b) : Did s .init (s.raiseConfigFatal b)
  /-- INIT with legal capacities. -/
  | init (hf : s.fault = false) (h : s.cfg.firstOffender = none) : Did s .init (initRegisters s).endDone
  /-- Any other command of a ready block. -/
  | ran (i : Instr) (t : State) (h : s.ready = true) (hr : Ran s i t) : Did s i t

/-- Inversion of `exec`: all that a command can have done when it answers a next state. -/
theorem exec_next {i : Instr} {s t : State} (h : exec i s = .next t) : Did s i t := by
  have ready : ∀ {run : Host.Outcome State Fault Refusal}, i ≠ .init → whenReady s run = .next t →
      (∀ u, run = .next u → Ran s i u) → Did s i t := by
    intro run hi hw hr
    cases hs : s.ready with
    | true =>
      rw [whenReady_of_ready hs] at hw
      exact .ran i t hs (hr t hw)
    | false =>
      rw [whenReady_of_not_ready hs] at hw
      cases hw
      refine .refused i ?_
      rcases hf : s.fault with _ | _
      · exact .inr ⟨by simpa [State.ready, hf] using hs, hi⟩
      · exact .inl rfl
  cases i with
  | init =>
    simp only [exec, execInit, Host.Outcome.next.injEq] at h
    cases hf : s.fault with
    | true => rw [hf, if_pos rfl] at h; subst h; exact .refused _ (.inl hf)
    | false =>
      rw [hf, if_neg (by simp)] at h
      cases ho : s.cfg.firstOffender with
      | none => rw [ho] at h; subst h; exact .init hf ho
      | some b => rw [ho] at h; subst h; exact .fatal b hf ho
  | proc d =>
    refine ready (by simp) h fun u hu => ?_
    cases d with
    | notFinite => simp at hu
    | finite v => simp only [withAmplitude_finite, Host.Outcome.next.injEq] at hu; subst hu; exact .proc v
  | paramTime d =>
    refine ready (by simp) h fun u hu => ?_
    cases d with
    | notFinite => simp at hu
    | finite v => simp only [withAmplitude_finite, Host.Outcome.next.injEq] at hu; subst hu; exact .time v
  | paramDepth d =>
    refine ready (by simp) h fun u hu => ?_
    cases d with
    | notFinite => simp at hu
    | finite v => simp only [withAmplitude_finite, Host.Outcome.next.injEq] at hu; subst hu; exact .depth v
  | paramMix d =>
    refine ready (by simp) h fun u hu => ?_
    cases d with
    | notFinite => simp at hu
    | finite v => simp only [withAmplitude_finite, Host.Outcome.next.injEq] at hu; subst hu; exact .mix v
  | paramOther n d =>
    refine ready (by simp) h fun u hu => ?_
    cases hu; exact .other n d
  | resume =>
    refine ready (by simp) h fun u hu => ?_
    cases hu; exact .resume

end Sys2Proof.Machine
end

