-- ==== Sys2Proof/Laws/Amplitude.lean ====
section
/-!
SUPPORT. The amplitude-domain operations under the laws of rules R177 and R191: clamping, the row index, the mix remap,
the ramp and the limiter.
-/

namespace Sys2Proof

/-! ## The configuration -/

/-- The scalar clauses of an admitted configuration (rule R10). -/
theorem Cfg.scalars_of_admitted {c : Cfg} (h : c.admitted = true) :
    (-4096 ≤ c.apGain.toInt ∧ c.apGain.toInt ≤ 4096) ∧ 0 < c.ceil ∧ (0 < c.rampStep ∧ c.rampStep ≤ 1) ∧
      (0 < c.rampEps ∧ c.rampEps ≤ 1) ∧ c.sampleFrac ≤ 30 := by
  simp only [Cfg.admitted, Cfg.scalarsOk, Bool.and_eq_true, decide_eq_true_eq] at h
  tauto

/-- The numerics of an admitted configuration are lawful (rule R191). -/
theorem Cfg.lawful_of_admitted {c : Cfg} (h : c.admitted = true) : c.num.Lawful c :=
  have hs := (Cfg.scalars_of_admitted h).2.2.1
  c.num_lawful hs.1 hs.2

/-- The curve of an admitted configuration is lawful (rule R177). -/
theorem Cfg.curve_of_admitted {c : Cfg} (h : c.admitted = true) : CurveLawful c.softclip c.ceil :=
  c.softclip_lawful (Cfg.scalars_of_admitted h).2.1

/-- Row 0 of an admitted Gain Table is all zero (rule R36). -/
theorem Cfg.rowZero_of_admitted {c : Cfg} (h : c.admitted = true) (i : Fin 6) : (c.gt.get 0).get i = 0#16 := by
  have h0 : c.gt.get 0 = Vector.replicate 6 0#16 := by
    simp only [Cfg.admitted, Cfg.rowZeroOk, Bool.and_eq_true, beq_iff_eq] at h
    exact h.1.2
  rw [h0]; simp [Vector.get_eq_getElem]

/-! ## Rounding -/

theorem Numerics.Lawful.rnd_nonneg {n : Numerics} {c : Cfg} (h : n.Lawful c) {q : Amplitude} (hq : 0 ≤ q) :
    0 ≤ n.rnd q := h.rnd_zero ▸ h.rnd_mono 0 q hq

theorem Numerics.Lawful.rnd_le_one {n : Numerics} {c : Cfg} (h : n.Lawful c) {q : Amplitude} (hq : q ≤ 1) :
    n.rnd q ≤ 1 := h.rnd_one ▸ h.rnd_mono q 1 hq

end Sys2Proof

namespace Sys2Proof.Machine

/-! ## Clamping and the row index -/

theorem clip01_nonneg (v : Amplitude) : 0 ≤ clip01 v := by simp [clip01]

theorem clip01_le_one (v : Amplitude) : clip01 v ≤ 1 := by simp [clip01]

theorem clip01_of_mem {v : Amplitude} (h0 : 0 ≤ v) (h1 : v ≤ 1) : clip01 v = v := by simp [clip01, h0, h1]

theorem gtIndexInt_range (t : Amplitude) : 0 ≤ gtIndexInt t ∧ gtIndexInt t ≤ 64 := by
  unfold gtIndexInt; omega

/-- GT.INDEX as an integer (rule R122). -/
theorem gtIndex_val (t : Amplitude) : ((gtIndex t).val : Int) = gtIndexInt t := by
  have h := gtIndexInt_range t
  simp only [gtIndex, Fin.ofNat]
  omega

/-! ## The ramp -/

/-- What one ramp advance gives: 1 or the update (rule R208). -/
theorem rampNext_cases (c : Cfg) (r : Amplitude) :
    rampNext c r = 1 ∨ (r ≠ 1 ∧ rampNext c r = c.num.rampUpdate c.rampStep r ∧
      c.rampEps ≤ c.num.rnd (1 - c.num.rampUpdate c.rampStep r)) := by
  unfold rampNext
  split
  · exact .inl rfl
  · split
    · exact .inl rfl
    · exact .inr ⟨‹_›, rfl, not_lt.mp ‹_›⟩

/-! ## The limiter -/

/-- Below the ceiling LIMIT is the identity (rule R176). -/
theorem limit_of_lt (cfg : Cfg) {c y : Amplitude} (h : |y| < c) : limit cfg c y = y := if_pos h

/-- At and above the ceiling LIMIT compresses the magnitude (rule R176). -/
theorem limit_of_ge (cfg : Cfg) {c y : Amplitude} (h : c ≤ |y|) :
    limit cfg c y = sgn y * cfg.num.rnd (c + cfg.softclip c (cfg.num.rnd (|y| - c))) := if_neg (not_lt.mpr h)

theorem limit_zero (cfg : Cfg) {c : Amplitude} (h : 0 < c) : limit cfg c 0 = 0 := limit_of_lt cfg (by simpa)

end Sys2Proof.Machine
end

