-- ==== Sys2Proof/Laws/PerInstr.lean ====
section
/-!
SUPPORT. Statements made of every instruction, one lemma per constructor of `Instr`.
-/

namespace Sys2Proof.Laws.EncodeMatches

/-- The row of spec/opcode_table.json that a command belongs to (rule R86). -/
def rowOf : Instr → Row
  | .init           => rowInit
  | .proc _         => rowProc
  | .paramTime _    => rowParamTime
  | .paramDepth _   => rowParamDepth
  | .paramMix _     => rowParamMix
  | .paramOther _ _ => rowParamOther
  | .resume         => rowResume

/-- The encoded word of a well-formed command selects the command's own row of the opcode table (rules R86, R89). -/
def Statement (i : Instr) : Prop := i.WellFormed → (rowOf i).selects (encode i).cw = true

theorem init : Statement .init := fun _ => by decide

theorem proc (input : Din) : Statement (.proc input) := fun _ => by simp only [rowOf, encode]; decide

theorem paramTime (v : Din) : Statement (.paramTime v) := fun _ => by simp only [rowOf, encode]; decide

theorem paramDepth (v : Din) : Statement (.paramDepth v) := fun _ => by simp only [rowOf, encode]; decide

theorem paramMix (v : Din) : Statement (.paramMix v) := fun _ => by simp only [rowOf, encode]; decide

theorem rowParamOther_selects : ∀ n : BitVec 8, rowParamOther.selects (0x200#10 + n.setWidth 10) = true := by
  decide +kernel

theorem paramOther (n : BitVec 8) (v : Din) : Statement (.paramOther n v) := fun _ => rowParamOther_selects n

theorem resume : Statement .resume := fun _ => by decide

end Sys2Proof.Laws.EncodeMatches
end

