-- ==== Sys2Proof/Tests/Slice0.lean ====
section
/-!
SUPPORT. The model's own tests: ill-formed terms, command words written out bit by bit, the derived vectors of
spec/95_test_vectors.md section 3 under CFG_T, and for every statement with hypotheses a state and operands that meet them.
-/

namespace Sys2Proof.Tests

open Sys2Proof Sys2Proof.Machine

/-! ## Helpers -/

/-- The block as power-on leaves it, built from a configuration. -/
def powerOn (c : Cfg) : State := { State.reset with cfg := c }

/-- The block after INIT under CFG_T. -/
def blockT : State := (initRegisters (powerOn Cfg.cfgT)).endDone

/-- CFG_T with the capacity of one slot replaced. -/
def cfgWith (b : Slot) (n : Nat) : Cfg := { Cfg.cfgT with cap := Cfg.cfgT.cap.set b n }

/-- CFG_T with CAP[A1] = 24 (vectors 3.9). -/
def cfgA1 : Cfg := cfgWith (.ap 1) 24

/-- CFG_T with CAP[C4] = 0 and CAP[A0] = 6 (vectors 3.9). -/
def cfgC4 : Cfg := { cfgWith (.comb 4) 0 with cap := (cfgWith (.comb 4) 0).cap.set (.ap 0) 6 }

/-- A memory from its words in index order. -/
def words (ws : List Int) : Memory := (ws.zipIdx).foldl (fun m p => m.write p.2 p.1) []

/-- A Delay Buffer that holds the words `ws` at cursor `c`. -/
def ring (ws : List Int) (c : Nat) (g : Coef) : DelayBuffer := ⟨words ws, c, g⟩

/-- A block whose rings hold something: the block after INIT, a frame with the ramp at 1. -/
def busyT : State := frame (1 / 2) { blockT with ramp := 1, depth := 3 / 4 }

/-! ## Well-formed commands and decoding (rules R86, R89; vectors 3.8) -/

theorem test_illformed_param_zero : (Instr.paramOther 0 (.finite 0)).wellFormed = false := by decide
theorem test_illformed_param_two : (Instr.paramOther 2 (.finite 0)).wellFormed = false := by decide

theorem test_decode_init : decode ⟨0b00_1010_1011#10, .finite 5⟩ = .init := by decide +kernel
theorem test_decode_proc : decode ⟨0b01_1111_1111#10, .finite (1 / 2)⟩ = .proc (.finite (1 / 2)) := by decide +kernel
theorem test_decode_time : decode ⟨0b10_0000_0000#10, .finite 1⟩ = .paramTime (.finite 1) := by decide +kernel
theorem test_decode_depth : decode ⟨0b10_0000_0001#10, .finite 1⟩ = .paramDepth (.finite 1) := by decide +kernel
theorem test_decode_mix : decode ⟨0b10_0000_0010#10, .finite 1⟩ = .paramMix (.finite 1) := by decide +kernel
theorem test_decode_other_low : decode ⟨0b10_0000_0011#10, .finite 1⟩ = .paramOther 3 (.finite 1) := by decide +kernel
theorem test_decode_other_high : decode ⟨0b10_1111_1111#10, .notFinite⟩ = .paramOther 255 .notFinite := by decide +kernel
theorem test_decode_resume : decode ⟨0b11_0000_0000#10, .finite 0⟩ = .resume := by decide +kernel
theorem test_decode_rejects : decodeNumber 1024 (.finite 0) = .error (.notTenBits 1024) := by decide +kernel

/-! ## Integers and Delay Buffers (vectors 3.1 and 3.7) -/

theorem test_shift_floors : asr (-4097) 12 = -2 ∧ asr (-1) 12 = -1 ∧ asr 4095 12 = 0 := by decide +kernel
theorem test_wrap : wrap32 4294967301 = 5 ∧ wrap32 (-2147483649) = 2147483647 := by decide +kernel

/-- Capacity 4, six writes after a reset: the row "66". -/
theorem test_ring_six_writes :
    ([11, 22, 33, 44, 55, 66].foldl (fun b v => b.advWrite 4 v) (ring [9, 9, 9, 9] 2 0).reset) = ring [44, 33, 66, 55] 2 0 := by
  decide +kernel

/-- The reads of the same row, offsets past the capacity among them. -/
theorem test_ring_reads :
    ([0, 1, 2, 3, 4, 5].map fun d => (ring [44, 33, 66, 55] 2 0).read 4 d) = [66, 55, 44, 33, 66, 55] := by decide +kernel

/-! ## INIT, faults and refusals (vectors 3.2 and 3.9) -/

/-- The gains after INIT under CFG_T. -/
theorem test_init_gains :
    Slot.all.map (fun b => (blockT.gain b)) = [288, 544, 800, 0, 0, 0, 2867, 2867, 2867, 2867] := by decide +kernel

theorem test_init_config_fatal :
    exec .init (powerOn cfgC4) = .next ((powerOn cfgC4).raiseConfigFatal (.comb 4)) := by
  have h : cfgC4.firstOffender = some (.comb 4) := by decide +kernel
  simp [exec, execInit, powerOn, State.reset, h]

theorem test_resume_refused_at_power_on :
    exec .resume (powerOn Cfg.cfgT) = .next { powerOn Cfg.cfgT with resp := some ⟨.refused, none⟩ } := (rfl)

/-! ## PARAM and the amplitude operations (vectors 3.2, 3.5, 3.6) -/

theorem test_time_half :
    (setTime (1 / 2) blockT).tidx = 32 ∧
      [3, 4, 5].map (fun i => (setTime (1 / 2) blockT).gain (.comb i)) = [2048, 2304, 2560] := by decide +kernel

theorem test_time_clipped : (setTime 5 blockT).time = 1 ∧ (setTime 5 blockT).tidx = 64 := by decide +kernel

theorem test_time_index : gtIndex (999 / 1000) = 63 ∧ gtIndex (1 / 128) = 0 ∧ gtIndex (1 / 64) = 1 := by decide +kernel

theorem test_depth_scale :
    depthScale (3 / 4) 12262 = 9196 ∧ depthScale (1 / 2) (-1) = -1 ∧ depthScale (1 / 10000) 123456 = 0 := by decide +kernel

theorem test_mix_remap :
    mixRemap (Numerics.exact 16) (1 / 4) = 25 / 98 ∧ mixRemap (Numerics.exact 16) (49 / 100) = 1 / 2 ∧
      mixRemap (Numerics.exact 16) (510001 / 1000000) = 490001 / 980000 := by decide +kernel

theorem test_limit :
    limit Cfg.cfgT 1 (3 / 2) = 4 / 3 ∧ limit Cfg.cfgT 1 (-3) = -5 / 3 ∧ limit Cfg.cfgT 1 (3 / 4) = 3 / 4 := by decide +kernel

theorem test_to_fix_truncates :
    (Numerics.exact 16).toFix (-1 / 3) = -21845 ∧ (Numerics.exact 16).toFix (-1 / 131072) = 0 := by decide +kernel

/-! ## PROC: one frame (vectors 3.3 and 3.4) -/

/-- The start state of vectors 3.3 for stage A. -/
def combT : State :=
  ((((setTime (1 / 2) blockT).setBuffer (.comb 3) (ring ((List.range 16).map fun k => 1000 + (k : Int)) 0 2048)).setBuffer
    (.comb 4) (ring ((List.range 16).map fun k => -(2000 + (k : Int))) 14 2304)).setBuffer
    (.comb 5) (ring ((List.range 16).map fun k => 3000 + 16 * (k : Int)) 7 2560))

theorem test_comb_a_sums : (combA (-500) combT).1 = ⟨2061, 2161, 2223, 2031⟩ := by decide +kernel

theorem test_comb_a_stores :
    [3, 4, 5].map (fun i => (((combA (-500) combT).2.dbRead (.comb i) 0), ((combA (-500) combT).2.buffer (.comb i)).cur))
      = [(2, 15), (-1629, 13), (1415, 6)] := by decide +kernel

/-- AP.CHAIN on four clear buffers, apin = 1000. -/
theorem test_ap_chain :
    (apChain 1000 blockT).1 = 240 ∧
      [0, 1, 2, 3].map (fun i => (apChain 1000 blockT).2.dbRead (.ap i) 0) = [1000, -699, 490, -342] := by decide +kernel

/-- The first frame after INIT: x = 0, the dry half of the input comes out, the ramp takes its first value. -/
theorem test_first_frame :
    (frame 1 blockT).resp = some ⟨.done, some ⟨1 / 2, 1 / 2⟩⟩ ∧ (frame 1 blockT).ramp = 1 / 2 := by decide +kernel

/-- At 15/16 the next advance snaps the ramp to 1. -/
theorem test_ramp_snaps : rampNext Cfg.cfgT (15 / 16) = 1 ∧ rampNext Cfg.cfgT (7 / 8) = 15 / 16 := by decide +kernel

/-- RESUME after a frame clears the rings and the ramp and keeps the gains. -/
theorem test_resume_clears :
    ((busyT.dbResetAll.writeRamp 0).buffer (.comb 3)).mem = [] ∧ (busyT.dbResetAll.writeRamp 0).gain (.ap 0) = 2867 ∧
      (busyT.buffer (.comb 3)).mem ≠ [] := by decide +kernel

/-! ## Witnesses: states and operands that meet the hypotheses of the statements -/

/-- Every property that the ten slots have is one of every slot. -/
theorem forall_slot {p : Slot → Bool} (h : Slot.all.all p = true) (b : Slot) : p b = true :=
  List.all_eq_true.mp h b (Slot.mem_all b)

/-- A block that runs: the hypotheses of ParamTimeResult, ParamDepthResult, ParamMixResult, ParamUnknownIndexIgnored and
ResumeResult (their ready clause), ProcCombNetwork, ProcWetPathAndOutput, ProcAdvancesRamp, ProcRegisterFrame,
NonFiniteOperandStops. -/
theorem test_witness_ready : busyT.fault = false ∧ busyT.inited = true := by decide +kernel

/-- The clauses of ProcCombNetwork and ProcRegisterFrame about the contract range: an input inside it and the
smallest outside, at RAMP = 1 and SAMPLE_FRAC = 16. -/
theorem test_witness_contract :
    busyT.ramp = 1 ∧ busyT.cfg.InContract (busyT.cfg.num.rnd (32767 * busyT.ramp)) ∧
      ¬ busyT.cfg.InContract (busyT.cfg.num.rnd (32768 * busyT.ramp)) := by decide +kernel

/-- The clauses of ProcWetPathAndOutput about the limiter: below the ceiling, at it, and at it on the other side. -/
theorem test_witness_ceiling :
    |(0 : Amplitude)| < busyT.cfg.ceil ∧ busyT.cfg.ceil ≤ 1 ∧ (0 : Amplitude) < 1 ∧ busyT.cfg.ceil ≤ -(-1) ∧
      (-1 : Amplitude) < 0 := by decide +kernel

/-- The indices at both ends of ParamUnknownIndexIgnored, and the encoding's well-formed terms there. -/
theorem test_witness_indices :
    3 ≤ (3#8).toNat ∧ 3 ≤ (255#8).toNat ∧ (Instr.paramOther 3 .notFinite).WellFormed ∧
      (Instr.paramOther 255 (.finite 1)).WellFormed ∧ (Instr.proc (.finite 1)).WellFormed := by decide

/-- The refusal clauses and NotInitializedRefusal, each disjunct: FAULT set, and INITED not set. -/
theorem test_witness_not_ready :
    ({ busyT with fault := true }.fault = true) ∧ (powerOn Cfg.cfgT).inited = false ∧ Instr.resume ≠ .init := by
  decide +kernel

/-- RefusalLeavesInitUnchanged: power-on and a command other than INIT. -/
theorem test_witness_before_init :
    (powerOn Cfg.cfgT).fault = false ∧ (powerOn Cfg.cfgT).inited = false ∧ Instr.proc (.finite 1) ≠ .init := by
  decide +kernel

/-- The capacities of CFG_T are powers of two. -/
theorem cfgT_caps (b : Slot) : ∃ n, Cfg.cfgT.cap.get b = 2 ^ n :=
  (isPowerOfTwo_iff _).mp (forall_slot (p := fun b => isPowerOfTwo (Cfg.cfgT.cap.get b)) (by decide +kernel) b)

/-- InitInitialisesBlock, the clauses of success and of the words, with a word at each end of the row. -/
theorem test_witness_init :
    (powerOn Cfg.cfgT).fault = false ∧ (∀ b, ∃ n, (powerOn Cfg.cfgT).cfg.cap.get b = 2 ^ n) ∧
      0x000#10 &&& 0x300#10 = 0x000#10 ∧ 0x0FF#10 &&& 0x300#10 = 0x000#10 :=
  ⟨by decide +kernel, cfgT_caps, by decide, by decide⟩

/-- InitForgetsHistory: a block just powered on and one that has run. -/
theorem test_witness_init_forgets :
    (powerOn Cfg.cfgT).fault = false ∧ busyT.fault = false ∧ (powerOn Cfg.cfgT).cfg = busyT.cfg ∧
      (powerOn Cfg.cfgT).pending = busyT.pending ∧ (powerOn Cfg.cfgT).freeCount = busyT.freeCount ∧
      (∀ b, ∃ n, (powerOn Cfg.cfgT).cfg.cap.get b = 2 ^ n) :=
  ⟨by decide +kernel, by decide +kernel, by simp [busyT, blockT, powerOn, State.endDone], by simp [busyT, blockT, powerOn, State.endDone],
    by decide +kernel, cfgT_caps⟩

theorem not_pow {n : Nat} (h : isPowerOfTwo n = false) : ¬ ∃ k, n = 2 ^ k := fun hk => by
  rw [(isPowerOfTwo_iff n).mpr hk] at h; cases h

/-- InitRaisesConfigFatal and the clause of InitInitialisesBlock: the first slot offends. -/
theorem test_witness_fatal_first :
    (powerOn (cfgWith (.comb 0) 0)).fault = false ∧ Slot.all = [] ++ .comb 0 :: Slot.all.tail ∧
      (¬ ∃ n, (powerOn (cfgWith (.comb 0) 0)).cfg.cap.get (.comb 0) = 2 ^ n) ∧
      (∀ d ∈ ([] : List Slot), ∃ n, (powerOn (cfgWith (.comb 0) 0)).cfg.cap.get d = 2 ^ n) :=
  ⟨by decide +kernel, by decide, not_pow (by decide +kernel), by simp⟩

/-- The same: the last slot offends. -/
theorem test_witness_fatal_last :
    (powerOn (cfgWith (.ap 3) 24)).fault = false ∧ Slot.all = Slot.all.dropLast ++ .ap 3 :: [] ∧
      (¬ ∃ n, (powerOn (cfgWith (.ap 3) 24)).cfg.cap.get (.ap 3) = 2 ^ n) ∧
      (∀ d ∈ Slot.all.dropLast, ∃ n, (powerOn (cfgWith (.ap 3) 24)).cfg.cap.get d = 2 ^ n) :=
  ⟨by decide +kernel, by decide, not_pow (by decide +kernel), fun d hd =>
    (isPowerOfTwo_iff _).mp (List.all_eq_true.mp
      (show Slot.all.dropLast.all (fun d => isPowerOfTwo ((powerOn (cfgWith (.ap 3) 24)).cfg.cap.get d)) = true by
        decide +kernel) d hd)⟩

/-- The opcode map: a word at each end of every row (DecodeFollowsOpcodeMap, ResumeResult's words). -/
theorem test_witness_rows :
    (0x1FF#10 &&& 0x300#10 = 0x100#10) ∧ (0x200#10 &&& 0x3FF#10 = 0x200#10) ∧ (0x201#10 &&& 0x3FF#10 = 0x201#10) ∧
      (0x202#10 &&& 0x3FF#10 = 0x202#10) ∧ (0x203#10 &&& 0x300#10 = 0x200#10 ∧ 3 ≤ (0x203#10).toNat % 256) ∧
      (0x2FF#10 &&& 0x300#10 = 0x200#10 ∧ 3 ≤ (0x2FF#10).toNat % 256) ∧ (0x300#10 &&& 0x300#10 = 0x300#10) ∧
      (0x3FF#10 &&& 0x300#10 = 0x300#10) := by decide

/-- EncodeDecodeKeepsUsedBits: a word whose DIN is kept, of each kind. -/
theorem test_witness_used_bits : opOf 0x1FF#10 = 0b01#2 ∧ opOf 0x2FF#10 = 0b10#2 := by decide

/-- StepRunsDecodedCommand: a command on the port, and none. -/
theorem test_witness_port :
    ((powerOn Cfg.cfgT).present ⟨0x3AB#10, .notFinite⟩).pending = [⟨0x3AB#10, .notFinite⟩] ∧
      (powerOn Cfg.cfgT).pending = [] := by decide +kernel

/-- PresentedRowRunsNext: a row's word. -/
theorem test_witness_row_word : decodeTableWord 10 0x203 = some (.paramOther 3 (.finite 0)) := by decide +kernel

/-- The Delay Buffer statements (ReadAddressesModuloCapacity, AdvanceAndWrite, WriteShiftsDelayLine, ReadWrapsAround,
RingReadsHistory, RingWriteIndex): a ring of capacity 4, and of capacity 1, cursors and offsets at their ends. -/
theorem test_witness_ring :
    (∃ n, 4 = 2 ^ n) ∧ (∃ n, 1 = 2 ^ n) ∧ (ring [1, 2, 3, 4] 0 0).cur < 4 ∧ (ring [1, 2, 3, 4] 3 0).cur < 4 ∧
      (ring [7] 0 0).cur < 1 ∧ (ring [1, 2, 3, 4] 3 0).mem.wf = true ∧ (ring [7] 0 0).mem.wf = true ∧ 2 + 2 ≤ 4 ∧ 0 + 2 ≤ 4 ∧
      0 < 1 ∧ 3 < 4 :=
  ⟨⟨2, rfl⟩, ⟨0, rfl⟩, by decide +kernel, by decide +kernel, by decide +kernel, by decide +kernel, by decide +kernel,
    by decide, by decide, by decide, by decide⟩

/-- CanonicalMemoriesReadingAlikeAreEqual: two writes in either order. -/
theorem test_witness_canonical :
    (((words []).write 1 5).write 0 (-1)).wf = true ∧ (((words []).write 0 (-1)).write 1 5).wf = true ∧
      (∀ k, (((words []).write 1 5).write 0 (-1)).read k = (((words []).write 0 (-1)).write 1 5).read k) := by
  have h : ((words []).write 1 5).write 0 (-1) = ((words []).write 0 (-1)).write 1 5 := by decide +kernel
  exact ⟨by decide +kernel, by decide +kernel, fun k => by rw [h]⟩

/-- GainTableIndex and TimeZeroSilencesStageAGains: the ends of the unit interval, and a time below 1/64. -/
theorem test_witness_time :
    InUnit 0 ∧ InUnit 1 ∧ Cfg.cfgT.admitted = true ∧ busyT.cfg.admitted = true ∧ (-1 : Amplitude) < 1 / 64 := by
  refine ⟨by decide +kernel, by decide +kernel, by decide +kernel, by decide +kernel, by norm_num⟩

/-- MixRemapMonotone: the ends, and the ends of the dead zone. -/
theorem test_witness_mix :
    Cfg.cfgT.admitted = true ∧ (0 : Amplitude) ≤ 0 ∧ (0 : Amplitude) ≤ 1 ∧ (1 : Amplitude) ≤ 1 ∧
      (0 : Amplitude) ≤ 49 / 100 ∧ (49 / 100 : Amplitude) ≤ 51 / 100 ∧ (51 / 100 : Amplitude) ≤ 1 :=
  ⟨by decide +kernel, by norm_num, by norm_num, by norm_num, by norm_num, by norm_num, by norm_num⟩

/-- ResumeErasesRings: two blocks that differ in what the rings and the ramp hold. -/
theorem test_witness_resume_erases :
    busyT.fault = false ∧ busyT.inited = true ∧
      (∀ b, (busyT.buffer b).gain = ({ busyT with buf := blockT.buf, ramp := 0 }.buffer b).gain) ∧
      { busyT with buf := blockT.buf, ramp := (0 : Amplitude), resp := busyT.resp } =
        { busyT with buf := blockT.buf, ramp := 0 } :=
  ⟨by decide +kernel, by decide +kernel, fun b => by
    have h := forall_slot (p := fun b => (busyT.buffer b).gain == (blockT.buffer b).gain) (by decide +kernel) b
    exact eq_of_beq h, (rfl)⟩

/-- The invariant holds of the block after INIT: FrameShiftsEveryDelayLine, WetSampleBounded, RampOnlyRises. -/
theorem blockT_inv : blockT.Inv where
  admitted := by decide +kernel
  canonical := forall_slot (p := fun b => (blockT.buffer b).mem.wf) (by decide +kernel)
  flags := by decide +kernel
  caps := by decide +kernel
  registers _ := {
    cursor := fun b => of_decide_eq_true
      (forall_slot (p := fun b => decide ((blockT.buffer b).cur < blockT.cap b)) (by decide +kernel) b)
    within := forall_slot (p := fun b => (blockT.buffer b).mem.within (4 * blockT.cap b)) (by decide +kernel)
    time := by decide +kernel
    depth := by decide +kernel
    mix := by decide +kernel
    ramp := by decide +kernel
    rampKept := by decide +kernel
    tidx := by decide +kernel
    gainEarly := by decide +kernel
    gainLate := by decide +kernel
    gainAp := by decide +kernel }
  outputs := by
    intro r o hr ho
    have h : blockT.resp = some ⟨.done, none⟩ := (rfl)
    rw [h, Option.some.injEq] at hr
    subst hr; cases ho

/-- The same statements' other hypotheses, offsets at both ends. -/
theorem test_witness_invariant :
    blockT.Inv ∧ blockT.inited = true ∧ 0 + 2 ≤ blockT.cap (.ap 3) ∧ 2 + 2 ≤ blockT.cap (.ap 3) :=
  ⟨blockT_inv, by decide +kernel, by decide +kernel, by decide +kernel⟩

/-- ProcMemoryFrame: every memory in its canonical form, the rings not clear; a byte below and one above the stored word. -/
theorem test_witness_memory :
    busyT.fault = false ∧ busyT.inited = true ∧ (∀ b, (busyT.buffer b).mem.wf = true) ∧
      cursorBack (busyT.cap (.comb 3)) (busyT.buffer (.comb 3)).cur = 14 ∧ 55 < 4 * 14 ∧ 4 * 14 + 4 ≤ 60 :=
  ⟨by decide +kernel, by decide +kernel, forall_slot (p := fun b => (busyT.buffer b).mem.wf) (by decide +kernel),
    by decide +kernel, by decide, by decide⟩

/-- SilenceIsKept, DepthZeroGivesDryPath and FrameAfterResumeIsDry: the block after INIT. -/
theorem test_witness_silence :
    blockT.cfg.admitted = true ∧ blockT.fault = false ∧ blockT.inited = true ∧ blockT.depth = 0 ∧
      (∀ b, (blockT.buffer b).mem = []) ∧ (∀ i : Fin 4, (blockT.buffer (.ap i)).mem = []) :=
  have h : ∀ b, (blockT.buffer b).mem = [] := fun b => by
    have h := forall_slot (p := fun b => (blockT.buffer b).mem == []) (by decide +kernel) b
    exact eq_of_beq h
  ⟨by decide +kernel, by decide +kernel, by decide +kernel, by decide +kernel, h, fun i => h (.ap i)⟩

/-- A block with other values of DEPTH and MIX. -/
def otherParameters (s : State) : State := { s with depth := 0, mix := 1 }

theorem otherParameters_keeps (s : State) :
    s.cfg = (otherParameters s).cfg ∧ s.ramp = (otherParameters s).ramp ∧ s.freeCount = (otherParameters s).freeCount ∧
      ∀ i : Fin 6, s.buffer (.comb i) = (otherParameters s).buffer (.comb i) := ⟨rfl, rfl, rfl, fun _ => rfl⟩

/-- StageAIgnoresTheRest and CombNetworkIgnoresDepthAndMix: two blocks that differ in the parameters. -/
theorem test_witness_same_combs :
    busyT.fault = false ∧ busyT.inited = true ∧ (otherParameters busyT).fault = false ∧
      (otherParameters busyT).inited = true ∧ busyT.cfg = (otherParameters busyT).cfg ∧
      busyT.ramp = (otherParameters busyT).ramp ∧ busyT.freeCount = (otherParameters busyT).freeCount ∧
      (∀ i : Fin 6, busyT.buffer (.comb i) = (otherParameters busyT).buffer (.comb i)) ∧
      busyT.depth ≠ (otherParameters busyT).depth :=
  have h := otherParameters_keeps busyT
  ⟨by decide +kernel, by decide +kernel, by decide +kernel, by decide +kernel, h.1, h.2.1, h.2.2.1, h.2.2.2,
    by decide +kernel⟩

/-- OutputBounded: the test curve is bounded by 1. -/
theorem test_witness_bound :
    busyT.cfg.admitted = true ∧ busyT.fault = false ∧ busyT.inited = true ∧
      ∀ e, 0 ≤ e → busyT.cfg.softclip busyT.cfg.ceil e ≤ 1 :=
  ⟨by decide +kernel, by decide +kernel, by decide +kernel, fun e he => by
    have hc : busyT.cfg.softclip = testCurve := by
      have h : busyT.cfg.curve = .test := by decide +kernel
      simp only [Cfg.softclip, h]
    rw [hc, testCurve, div_le_one (by linarith)]; linarith⟩

/-- LimiterOddAndMonotone: at the ceiling and above it. -/
theorem test_witness_limiter :
    Cfg.cfgT.admitted = true ∧ Cfg.cfgT.ceil ≤ 1 ∧ (1 : Amplitude) ≤ 3 / 2 ∧ (0 : Amplitude) ≤ 0 :=
  ⟨by decide +kernel, by decide +kernel, by norm_num, le_refl _⟩

/-- RampOnlyRises, FlagsAndConfiguration, AccessMatrix, OutputsOnlyFromFrames: a frame that answers a next state. -/
theorem test_witness_next :
    (∃ t r o, exec (.proc (.finite 1)) blockT = .next t ∧ t.resp = some r ∧ r.out = some o) ∧
      Instr.proc (.finite 1) ≠ .init ∧ Instr.proc (.finite 1) ≠ .resume := by
  have h : blockT.ready = true := by decide +kernel
  exact ⟨⟨_, _, _, whenReady_of_ready h _, frame_resp 1 blockT, rfl⟩, by simp, by simp⟩

/-- The clauses of AccessMatrix, one command for each: PARAM depth and PARAM time answer a next state. -/
theorem test_witness_access :
    (∃ t, exec (.paramDepth (.finite 1)) blockT = .next t) ∧ (∃ t, exec (.paramTime (.finite 1)) blockT = .next t) ∧
      (∀ v, Instr.paramDepth (.finite 1) ≠ .paramTime v) ∧ (∀ v, Instr.paramTime (.finite 1) ≠ .paramDepth v) ∧
      (∀ v, Instr.paramTime (.finite 1) ≠ .paramMix v) ∧ (∀ v, Instr.paramTime (.finite 1) ≠ .proc v) := by
  have h : blockT.ready = true := by decide +kernel
  exact ⟨⟨_, whenReady_of_ready h _⟩, ⟨_, whenReady_of_ready h _⟩, by simp, by simp, by simp, by simp⟩

/-- StepKeepsInvariant: a step of a block with the invariant. -/
theorem test_witness_step : blockT.Inv ∧ step blockT = .next blockT := ⟨blockT_inv, (rfl)⟩

/-- ExactFadeIn: five frames under CFG_T, the snap at the fifth, and four frames, with no snap. -/
theorem test_witness_fade :
    let s := { blockT with pending := List.replicate 5 ⟨0x100#10, .finite 1⟩ }
    s.fault = false ∧ s.inited = true ∧ s.cfg.numChoice = .exact ∧ s.ramp = 0 ∧
      (∀ k, 1 ≤ k → k < 5 → s.cfg.rampEps ≤ (1 - s.cfg.rampStep) ^ k) ∧
      (1 - s.cfg.rampStep) ^ 5 < s.cfg.rampEps ∧ s.cfg.rampEps ≤ (1 - s.cfg.rampStep) ^ 4 := by
  have h1 : blockT.cfg.rampStep = 1 / 2 := by decide +kernel
  have h2 : blockT.cfg.rampEps = 1 / 16 := by decide +kernel
  refine ⟨by decide +kernel, by decide +kernel, by decide +kernel, by decide +kernel, fun k h0 h5 => ?_, ?_, ?_⟩
  · simp only [h1, h2]; interval_cases k <;> norm_num
  · simp only [h1, h2]; norm_num
  · simp only [h1, h2]; norm_num

/-- InitialisedRunIsNeverRefused: INIT, a parameter, a frame. -/
theorem test_witness_run :
    let cs : List Command := [⟨0x201#10, .finite 1⟩, ⟨0x100#10, .finite 1⟩]
    let s := { powerOn Cfg.cfgT with pending := ⟨0x000#10, .finite 0⟩ :: cs }
    s.cfg.wf = true ∧ s.fault = false ∧ decode ⟨0x000#10, .finite 0⟩ = .init ∧ (∀ d ∈ cs, d.hasFiniteDin = true) ∧
      1 ≤ cs.length + 1 :=
  ⟨by decide +kernel, by decide +kernel, by decide +kernel, by decide +kernel, by decide⟩

/-- FaultedBlockRefusesForever: a faulted block with two commands presented. -/
theorem test_witness_faulted :
    let s := { (powerOn cfgA1).raiseConfigFatal (.ap 1) with
      pending := [⟨0x000#10, .finite 0⟩, ⟨0x100#10, .finite 1⟩] }
    s.fault = true ∧ 1 ≤ 2 ∧ 2 ≤ s.pending.length := by decide +kernel

end Sys2Proof.Tests
end

section
/-!
PROOFS. The integer operations of rule R11: the shift is the floor of the quotient, `wrap_32` picks the residue.
-/

namespace Sys2Proof.Machine

/-- `wrap_32` keeps the residue modulo 2^32 (rule R11). -/
theorem dvd_sub_wrap32 (v : Int) : (2 ^ 32 : Int) ∣ v - wrap32 v := by
  rw [wrap32_eq_bmod]
  exact Int.dvd_self_sub_bmod

/-- `wrap_32` depends on the residue modulo 2^32 alone (rule R11). -/
theorem wrap32_congr {v w : Int} (h : (2 ^ 32 : Int) ∣ v - w) : wrap32 v = wrap32 w := by
  rw [wrap32_eq_bmod, wrap32_eq_bmod]
  exact Int.bmod_eq_bmod_iff_bmod_sub_eq_zero.mpr (Int.bmod_eq_zero_of_dvd h)

/-- Settles O9: `wrap_32` lands in the range and keeps the residue; a `w` of the same residue has the same `wrap_32`,
which in the range is `w` itself. -/
theorem wrapIsUniqueResidue : Obligations.WrapIsUniqueResidue := by
  intro v w
  constructor
  · rintro rfl
    exact ⟨wrap32_range v, dvd_sub_wrap32 v⟩
  · rintro ⟨⟨hlo, hhi⟩, hdvd⟩
    exact (wrap32_congr hdvd).trans (wrap32_of_range hlo hhi)

/-- Settles O8: the integer quotient by a positive power of two is the floor of the rational one. -/
theorem shiftIsFloor : Obligations.ShiftIsFloor := by
  intro v n
  have hfloor := Rat.floor_intCast_div_natCast v (2 ^ n)
  push_cast at hfloor
  exact hfloor.symm

end Sys2Proof.Machine
end

section
/-!
PROOFS. What a step does with the command port, and which registers each command leaves (rules R43, R47, R49, R200, R231).
-/

namespace Sys2Proof.Machine

/-! ## The command port -/

theorem step_of_pending_nil {s : State} (h : s.pending = []) : step s = .next s := by
  simp [step, State.accept, h]

theorem step_of_pending_cons {s : State} {c : Command} {cs : List Command} (h : s.pending = c :: cs) :
    step s = exec (decode c) { s with pending := cs } := by
  simp [step, State.accept, h]

/-- A step waits, or runs the oldest command on the state without it. -/
theorem step_next {s t : State} (h : step s = .next t) :
    t = s ∨ ∃ i cs, exec i { s with pending := cs } = .next t := by
  cases hp : s.pending with
  | nil =>
    rw [step_of_pending_nil hp] at h
    cases h
    exact .inl rfl
  | cons c cs => exact .inr ⟨decode c, cs, step_of_pending_cons hp ▸ h⟩

/-! ## The registers that a command leaves -/

/-- PARAM time loads gains and touches no memory and no cursor (rules R126, R212). -/
theorem setTime_ring (v : Amplitude) (s : State) (b : Slot) :
    ((setTime v s).buffer b).mem = (s.buffer b).mem ∧ ((setTime v s).buffer b).cur = (s.buffer b).cur := by
  cases b <;> simp [setTime_buffer]

namespace Ran

variable {i : Instr} {s t : State} (h : Ran s i t)
include h

theorem cfg_eq : t.cfg = s.cfg := by cases h <;> simp
theorem fault_eq : t.fault = s.fault := by cases h <;> simp
theorem inited_eq : t.inited = s.inited := by cases h <;> simp
theorem pending_eq : t.pending = s.pending := by cases h <;> simp

theorem depth_eq (hi : ∀ v, i ≠ .paramDepth v) : t.depth = s.depth := by
  cases h with
  | depth v => exact absurd rfl (hi _)
  | _ => simp

theorem mix_eq (hi : ∀ v, i ≠ .paramMix v) : t.mix = s.mix := by
  cases h with
  | mix v => exact absurd rfl (hi _)
  | _ => simp

theorem time_eq (hi : ∀ v, i ≠ .paramTime v) : t.time = s.time := by
  cases h with
  | time v => exact absurd rfl (hi _)
  | _ => simp

theorem tidx_eq (hi : ∀ v, i ≠ .paramTime v) : t.tidx = s.tidx := by
  cases h with
  | time v => exact absurd rfl (hi _)
  | _ => simp

theorem ramp_eq (hp : ∀ v, i ≠ .proc v) (hr : i ≠ .resume) : t.ramp = s.ramp := by
  cases h with
  | proc v => exact absurd rfl (hp _)
  | resume => exact absurd rfl hr
  | _ => simp

/-- PARAM time alone loads gains; a frame and a reset of the buffers keep them (rules R104, R106). -/
theorem gain_eq (hi : ∀ v, i ≠ .paramTime v) (b : Slot) : (t.buffer b).gain = (s.buffer b).gain := by
  cases h with
  | time v => exact absurd rfl (hi _)
  | proc v => simp [frame_buffer]
  | resume => simp [State.buffer_dbResetAll]
  | _ => simp

/-- Not even PARAM time writes a gain of the chain (rule R126). -/
theorem apGain_eq (j : Fin 4) : (t.buffer (.ap j)).gain = (s.buffer (.ap j)).gain := by
  cases h with
  | time v => simp [setTime_buffer]
  | proc v => simp [frame_buffer]
  | resume => simp [State.buffer_dbResetAll]
  | _ => simp

/-- PROC and RESUME alone reach a delay memory or a cursor (rules R200, R220). -/
theorem ring_eq (hp : ∀ v, i ≠ .proc v) (hr : i ≠ .resume) (b : Slot) :
    (t.buffer b).mem = (s.buffer b).mem ∧ (t.buffer b).cur = (s.buffer b).cur := by
  cases h with
  | proc v => exact absurd rfl (hp _)
  | resume => exact absurd rfl hr
  | time v => exact setTime_ring v s b
  | _ => simp

end Ran

/-- A command other than INIT is refused or runs on a ready block. -/
theorem Did.of_ne_init {i : Instr} {s t : State} (h : Did s i t) (hi : i ≠ .init) :
    t = s.refuseNotInitialized ∨ Ran s i t := by
  cases h with
  | refused => exact .inl rfl
  | fatal => exact absurd rfl hi
  | init => exact absurd rfl hi
  | ran _ _ _ hr => exact .inr hr

/-- No command writes the configuration (rule R49). -/
theorem Did.cfg_eq {i : Instr} {s t : State} (h : Did s i t) : t.cfg = s.cfg := by
  cases h with
  | ran _ _ _ hr => exact hr.cfg_eq
  | _ => simp

/-- FAULT is sticky (rule R43). -/
theorem Did.fault_of_fault {i : Instr} {s t : State} (h : Did s i t) (hf : s.fault = true) : t.fault = true := by
  cases h with
  | ran _ _ _ hr => rw [hr.fault_eq, hf]
  | _ => simp [hf]

/-- INITED never falls (rule R42). -/
theorem Did.inited_of_inited {i : Instr} {s t : State} (h : Did s i t) (hs : s.inited = true) : t.inited = true := by
  cases h with
  | ran _ _ _ hr => rw [hr.inited_eq, hs]
  | _ => simp [hs]

/-- Settles O50: the configuration and the flags through what each command can have done; only ConfigFatal and a completed
INIT write a flag. -/
theorem flagsAndConfiguration : Obligations.FlagsAndConfiguration := by
  intro i s t h
  have hd := exec_next h
  refine ⟨hd.cfg_eq, hd.fault_of_fault, hd.inited_of_inited, fun hi => ?_⟩
  obtain rfl | hr := hd.of_ne_init hi
  · simp
  · exact ⟨hr.fault_eq, hr.inited_eq⟩

/-- Settles O51: a refusal writes the response alone, and a command that runs writes the registers of its own row. -/
theorem accessMatrix : Obligations.AccessMatrix := by
  intro i s t h hi
  obtain rfl | hr := (exec_next h).of_ne_init hi
  · simp
  · exact ⟨fun ht => ⟨hr.time_eq ht, hr.tidx_eq ht, hr.gain_eq ht⟩, hr.apGain_eq, hr.depth_eq, hr.mix_eq,
      fun hp hs => ⟨hr.ramp_eq hp hs, hr.ring_eq hp hs⟩, hr.pending_eq⟩

/-! ## PROC -/

/-- PROC of a finite amplitude on a ready block is one frame (rule R200). -/
theorem exec_proc_of_ready {s : State} (h : s.ready = true) (v : Amplitude) :
    exec (.proc (.finite v)) s = .next (frame v s) :=
  whenReady_of_ready h _

/-- The contract range with its two powers of two written out (rule R202). -/
theorem inContract_iff (c : Cfg) (a : Amplitude) : c.InContract a ↔ |a| * 2 ^ c.sampleFrac < 2 ^ 31 := by
  norm_num [Cfg.InContract, scaleOf]

/-- Settles O37: the frame in closed form, field by field. -/
theorem procRegisterFrame : Obligations.ProcRegisterFrame := by
  intro s v hf hi
  refine ⟨frame v s, exec_proc_of_ready (s.ready_iff.mpr ⟨hf, hi⟩) v, ⟨_, frame_resp v s⟩, fun hc => ?_,
    fun b => by simp [frame_buffer], by ext : 1 <;> simp⟩
  rw [frame_freeCount, if_pos ((inContract_iff s.cfg (rampedInput v s)).mpr hc)]

/-! ## A faulted block -/

/-- While FAULT = 1 every command is refused, INIT included (rule R232). -/
theorem exec_of_fault {s : State} (h : s.fault = true) (i : Instr) : exec i s = .next s.refuseNotInitialized := by
  have hr : s.ready = false := by simp [State.ready, h]
  cases i with
  | init => simp [exec, execInit, h]
  | _ => exact whenReady_of_not_ready hr _

theorem step_of_fault {s : State} {c : Command} {cs : List Command} (h : s.fault = true) (hp : s.pending = c :: cs) :
    step s = .next { s with pending := cs, resp := some ⟨.refused, none⟩ } := by
  rw [step_of_pending_cons hp]
  exact exec_of_fault (s := { s with pending := cs }) h _

theorem run_succ_of_step {s t : State} (h : step s = .next t) (k : Nat) :
    Host.Core.run core (k + 1) s = Host.Core.run core k t := by
  simp only [Host.Core.run, core, h]

/-- Settles O57, by induction on the number of steps: each takes one command off the port and refuses it, and FAULT
stays. -/
theorem faultedBlockRefusesForever : Obligations.FaultedBlockRefusesForever := by
  intro s k hf hk hlen
  induction k generalizing s with
  | zero => omega
  | succ k ih =>
    cases hp : s.pending with
    | nil => simp [hp] at hlen
    | cons c cs =>
      rw [run_succ_of_step (step_of_fault hf hp)]
      cases k with
      | zero => rfl
      | succ k =>
        refine ih { s with pending := cs, resp := some ⟨.refused, none⟩ } hf (by omega) ?_
        simpa [hp] using hlen

end Sys2Proof.Machine
end

section
/-!
PROOFS. The invariant of rule R45: it holds after power-on reset, and every step keeps it.
-/

namespace Sys2Proof.Machine

/-! ## A delay memory stays inside its array (rule R31) -/

@[simp] theorem Memory.wf_nil : Memory.wf [] = true := rfl

@[simp] theorem Memory.within_nil (n : Nat) : Memory.within [] n = true := rfl

theorem Memory.within_cons (a : Nat) (v : Byte) (m : Memory) (n : Nat) :
    Memory.within ((a, v) :: m) n = true ↔ a < n ∧ m.within n = true := by
  simp [Memory.within]

theorem Memory.consByte_within {m : Memory} {a n : Nat} (v : Byte) (ha : a < n) (hm : m.within n = true) :
    (Memory.consByte a v m).within n = true := by
  unfold Memory.consByte
  split
  · exact hm
  · exact (Memory.within_cons a v m n).mpr ⟨ha, hm⟩

theorem Memory.setByte_within {m : Memory} {a n : Nat} (v : Byte) (ha : a < n) (hm : m.within n = true) :
    (m.setByte a v).within n = true := by
  induction m with
  | nil => exact Memory.consByte_within v ha hm
  | cons c m ih =>
    obtain ⟨k, w⟩ := c
    obtain ⟨hk, hrest⟩ := (Memory.within_cons k w m n).mp hm
    unfold Memory.setByte
    split
    · exact Memory.consByte_within v ha hm
    · split
      · exact Memory.consByte_within v ha hrest
      · exact (Memory.within_cons k w _ n).mpr ⟨hk, ih hrest⟩

/-- MemWrite of word `k` reaches the four bytes below `4 * cap` of an array of `cap > k` words (rule R61). -/
theorem Memory.write_within {m : Memory} {k cap : Nat} (v : Int) (hk : k < cap) (hm : m.within (4 * cap) = true) :
    (m.write k v).within (4 * cap) = true := by
  unfold Memory.write Memory.setWord
  exact Memory.setByte_within _ (by omega) (Memory.setByte_within _ (by omega)
    (Memory.setByte_within _ (by omega) (Memory.setByte_within _ (by omega) hm)))

/-! ## The values that the parameter registers take (rules R191, R196, R198, R208) -/

theorem clip01_inUnit (v : Amplitude) : InUnit (clip01 v) := ⟨clip01_nonneg v, clip01_le_one v⟩

theorem rnd_inUnit {n : Numerics} {c : Cfg} (hn : n.Lawful c) {q : Amplitude} (h : InUnit q) : InUnit (n.rnd q) :=
  ⟨hn.rnd_nonneg h.1, hn.rnd_le_one h.2⟩

/-- MIX.REMAP maps [0,1] into itself: each of its two slopes stays on its own side of 1/2 before the rounding. -/
theorem mixRemap_inUnit {n : Numerics} {c : Cfg} (hn : n.Lawful c) {v : Amplitude} (h : InUnit v) :
    InUnit (mixRemap n v) := by
  obtain ⟨h0, h1⟩ := h
  unfold mixRemap
  split
  · exact rnd_inUnit hn ⟨by linarith, by linarith⟩
  · split
    · norm_num [InUnit]
    · exact rnd_inUnit hn ⟨by linarith, by linarith⟩

/-- RAMP.ADV keeps a representable ramp in [0,1] and representable (law N5). -/
theorem rampNext_inUnit {c : Cfg} (hn : c.num.Lawful c) {r : Amplitude} (h : InUnit r) (hr : c.num.rnd r = r) :
    InUnit (rampNext c r) ∧ c.num.rnd (rampNext c r) = rampNext c r := by
  obtain ⟨h0, h1⟩ := h
  rcases rampNext_cases c r with he | ⟨hne, he, -⟩
  · rw [he]
    exact ⟨by norm_num [InUnit], hn.rnd_one⟩
  · obtain ⟨hlo, hhi⟩ := hn.ramp_up r hr h0 (lt_of_le_of_ne h1 hne)
    rw [he]
    exact ⟨⟨h0.trans hlo, hhi⟩, hn.rnd_rnd _⟩

/-! ## The rows that the comb gains are loaded from (rule R126) -/

theorem gainRow_early (j : Fin 3) (r : Fin 65) : gainRow (j.castAdd 3) r = 1 := by
  simp [gainRow]

/-- Said of `addNat`, which is how simp writes the index of slot C(k+3). -/
theorem gainRow_late (k : Fin 3) (r : Fin 65) : gainRow (k.addNat 3) r = r := by
  simp [gainRow]

/-! ## The registers of rule R45, command by command -/

/-- Rule R45 speaks neither of FAULT nor of the ports. -/
theorem State.RegistersOk.setFaultAndPorts {s : State} (h : s.RegistersOk) (f : Bool) (cs : List Command)
    (r : Option Response) : { s with fault := f, pending := cs, resp := r }.RegistersOk := { h with }

theorem State.RegistersOk.endDone {s : State} (h : s.RegistersOk) : s.endDone.RegistersOk :=
  h.setFaultAndPorts s.fault s.pending _

/-- A frame moves every cursor back inside its array, writes the word there, and advances the ramp. -/
theorem State.RegistersOk.frame {s : State} (h : s.RegistersOk) (hn : s.cfg.num.Lawful s.cfg)
    (hc : s.cfg.capsOk = true) (v : Amplitude) : (frame v s).RegistersOk := by
  have hcap : ∀ b, (Machine.frame v s).cap b = s.cap b := fun b => by simp [State.cap]
  have hcur : ∀ b, cursorBack (s.cap b) (s.buffer b).cur < s.cap b :=
    fun b => cursorBack_lt (s.cfg.capsOk_iff.mp hc b) (h.cursor b)
  obtain ⟨hramp, hkept⟩ := rampNext_inUnit hn h.ramp h.rampKept
  exact {
    cursor := fun b => by simpa [frame_buffer, hcap] using hcur b
    within := fun b => by simpa [frame_buffer, hcap] using Memory.write_within _ (hcur b) (h.within b)
    time := by simpa using h.time
    depth := by simpa using h.depth
    mix := by simpa using h.mix
    ramp := by simpa using hramp
    rampKept := by simpa using hkept
    tidx := by simpa using h.tidx
    gainEarly := by simpa [frame_buffer] using h.gainEarly
    gainLate := by simpa [frame_buffer] using h.gainLate
    gainAp := by simpa [frame_buffer] using h.gainAp }

/-- PARAM time writes TIME, its row and the comb gains of that row together. -/
theorem State.RegistersOk.setTime {s : State} (h : s.RegistersOk) (v : Amplitude) : (setTime v s).RegistersOk where
  cursor b := by simpa [setTime_ring, State.cap] using h.cursor b
  within b := by simpa [setTime_ring, State.cap] using h.within b
  time := by simpa using clip01_inUnit v
  depth := by simpa using h.depth
  mix := by simpa using h.mix
  ramp := by simpa using h.ramp
  rampKept := by simpa using h.rampKept
  tidx := by simp
  gainEarly j := by simp [setTime_buffer, slotB, gainRow_early, gtRow]
  gainLate k := by simp [setTime_buffer, slotA, gainRow_late, gtRow]
  gainAp := by simpa [setTime_buffer] using h.gainAp

theorem State.RegistersOk.writeDepth {s : State} (h : s.RegistersOk) {d : Amplitude} (hd : InUnit d) :
    (s.writeDepth d).RegistersOk := { h with depth := hd }

theorem State.RegistersOk.writeMix {s : State} (h : s.RegistersOk) {m : Amplitude} (hm : InUnit m) :
    (s.writeMix m).RegistersOk := { h with mix := hm }

/-- The cleared rings and the ramp at 0 that RESUME leaves: a cursor 0 is inside every legal array. -/
theorem State.RegistersOk.resume {s : State} (h : s.RegistersOk) (hn : s.cfg.num.Lawful s.cfg) :
    (s.dbResetAll.writeRamp 0).RegistersOk where
  cursor b := by simpa [State.buffer_dbResetAll, State.cap] using (Nat.zero_le _).trans_lt (h.cursor b)
  within b := by simp [State.buffer_dbResetAll]
  time := by simpa using h.time
  depth := by simpa using h.depth
  mix := by simpa using h.mix
  ramp := by norm_num [InUnit]
  rampKept := by simpa using hn.rnd_zero
  tidx := by simpa using h.tidx
  gainEarly := by simpa [State.buffer_dbResetAll] using h.gainEarly
  gainLate := by simpa [State.buffer_dbResetAll] using h.gainLate
  gainAp := by simpa [State.buffer_dbResetAll] using h.gainAp

/-- INIT on legal capacities writes every register of rule R45, whatever they held. -/
theorem initRegisters_registersOk {s : State} (hn : s.cfg.num.Lawful s.cfg) (hc : s.cfg.capsOk = true) :
    (initRegisters s).RegistersOk where
  cursor b := by
    have hpos : 0 < s.cfg.cap.get b := isPowerOfTwo_pos (s.cfg.capsOk_iff.mp hc b)
    cases b <;> simpa [initRegisters_buffer, State.cap] using hpos
  within b := by cases b <;> simp [initRegisters_buffer]
  time := by norm_num [InUnit]
  depth := by norm_num [InUnit]
  mix := by norm_num [InUnit]
  ramp := by norm_num [InUnit]
  rampKept := by simpa using hn.rnd_zero
  tidx := by simp
  gainEarly j := by simp [initRegisters_buffer, slotB, gainRow_early, gtRow]
  gainLate k := by simp [initRegisters_buffer, slotA, gainRow_late, gtRow]
  gainAp i := by simp [initRegisters_buffer]

/-- Every command that runs on a ready block keeps the registers of rule R45. -/
theorem Ran.registersOk {i : Instr} {s t : State} (h : Ran s i t) (hs : s.RegistersOk)
    (hn : s.cfg.num.Lawful s.cfg) (hc : s.cfg.capsOk = true) : t.RegistersOk := by
  cases h with
  | proc v => exact hs.frame hn hc v
  | time v => exact (hs.setTime v).endDone
  | depth v => exact (hs.writeDepth (clip01_inUnit v)).endDone
  | mix v => exact (hs.writeMix (mixRemap_inUnit hn (clip01_inUnit v))).endDone
  | other n v => exact hs.endDone
  | resume => exact (hs.resume hn).endDone

/-! ## The canonical form and the response -/

/-- A command that runs leaves a delay memory, writes one word of it, or clears it; each keeps the canonical form. -/
theorem Ran.canonical {i : Instr} {s t : State} (h : Ran s i t) (hs : ∀ b, (s.buffer b).mem.wf = true) (b : Slot) :
    (t.buffer b).mem.wf = true := by
  cases h with
  | proc v => rw [frame_buffer]; exact DelayBuffer.advWrite_wf _ (hs b) _
  | time v => simpa [setTime_ring] using hs b
  | resume => simp [State.buffer_dbResetAll]
  | _ => simpa using hs b

theorem Did.canonical {i : Instr} {s t : State} (h : Did s i t) (hs : ∀ b, (s.buffer b).mem.wf = true) (b : Slot) :
    (t.buffer b).mem.wf = true := by
  cases h with
  | init => cases b <;> simp [initRegisters_buffer]
  | ran _ _ _ hr => exact hr.canonical hs b
  | _ => simpa using hs b

/-- The response of a command: a frame's `done` with one value on both outputs, or no outputs (rules R80, R206). -/
theorem Did.resp_cases {i : Instr} {s t : State} (h : Did s i t) :
    (∃ v o, i = .proc (.finite v) ∧ t.resp = some ⟨.done, some ⟨o, o⟩⟩) ∨ ∃ st, t.resp = some ⟨st, none⟩ := by
  cases h with
  | ran _ _ _ hr =>
    cases hr with
    | proc v => exact .inl ⟨v, frameOut v s, rfl, frame_resp v s⟩
    | _ => exact .inr ⟨.done, by simp⟩
  | _ => exact .inr ⟨_, rfl⟩

theorem Did.outputs {i : Instr} {s t : State} (h : Did s i t) (r : Response) (o : Outputs) (hr : t.resp = some r)
    (ho : r.out = some o) : r.status = .done ∧ o.outL = o.outR := by
  obtain ⟨v, q, -, hq⟩ | ⟨st, hq⟩ := h.resp_cases
  · rw [hq] at hr
    cases hr
    cases ho
    exact ⟨rfl, rfl⟩
  · rw [hq] at hr
    cases hr
    cases ho

/-! ## The invariant -/

theorem State.Inv.setPending {s : State} (h : s.Inv) (cs : List Command) : { s with pending := cs }.Inv :=
  { h with registers := fun hi => (h.registers hi).setFaultAndPorts s.fault cs s.resp }

/-- An initialised block cannot raise ConfigFatal: its first INIT has found the capacities legal. -/
theorem State.Inv.inited_of_firstOffender {s : State} (hs : s.Inv) {b : Slot} (h : s.cfg.firstOffender = some b) :
    s.inited = false := by
  rw [← Bool.not_eq_true]
  intro hi
  have hnone := s.cfg.firstOffender_eq_none.mpr (hs.caps hi)
  simp [h] at hnone

section

variable {i : Instr} {s t : State} (h : Did s i t) (hs : s.Inv)
include h hs

theorem Did.flags (hf : t.fault = true) : t.inited = false := by
  cases h with
  | refused => exact hs.flags hf
  | fatal b _ ho => exact hs.inited_of_firstOffender ho
  | init hf0 => simp [hf0] at hf
  | ran _ _ _ hr => rw [hr.inited_eq]; exact hs.flags (hr.fault_eq ▸ hf)

theorem Did.caps (hi : t.inited = true) : t.cfg.capsOk = true := by
  cases h with
  | refused => exact hs.caps hi
  | fatal => exact hs.caps hi
  | init _ ho => simpa using s.cfg.firstOffender_eq_none.mp ho
  | ran _ _ _ hr => rw [hr.cfg_eq]; exact hs.caps (hr.inited_eq ▸ hi)

theorem Did.registersOk (hi : t.inited = true) : t.RegistersOk := by
  have hn : s.cfg.num.Lawful s.cfg := Cfg.lawful_of_admitted hs.admitted
  cases h with
  | refused => exact (hs.registers hi).setFaultAndPorts s.fault s.pending _
  | fatal => exact (hs.registers hi).setFaultAndPorts true s.pending _
  | init _ ho => exact (initRegisters_registersOk hn (s.cfg.firstOffender_eq_none.mp ho)).endDone
  | ran _ _ _ hr =>
    have hi0 : s.inited = true := hr.inited_eq ▸ hi
    exact hr.registersOk (hs.registers hi0) hn (hs.caps hi0)

/-- Every command that answers a next state keeps the invariant. -/
theorem Did.inv : t.Inv where
  admitted := h.cfg_eq ▸ hs.admitted
  canonical := h.canonical hs.canonical
  flags := h.flags hs
  caps := h.caps hs
  registers := h.registersOk hs
  outputs := h.outputs

end

/-- Settles O53: a step waits, or runs one command, which keeps the invariant. -/
theorem stepKeepsInvariant : Obligations.StepKeepsInvariant := by
  intro s t hs h
  obtain rfl | ⟨i, cs, he⟩ := step_next h
  · exact hs
  · exact (exec_next he).inv (hs.setPending cs)

/-! ## Power-on reset -/

theorem reset_buffer (b : Slot) : State.reset.buffer b = ⟨[], 0, 0⟩ := by
  cases b <;> simp [State.buffer, State.reset, Vector.get_eq_getElem]

/-- Settles O55: both flags are fields of the reset state as rule R46 gives them. -/
theorem resetFlags : Obligations.ResetFlags := ⟨rfl, rfl⟩

/-- Settles O54: the bound configuration is admitted, the memories are clear, and INITED = 0 asks nothing more. -/
theorem resetHasInvariant : Obligations.ResetHasInvariant := by
  obtain ⟨hinited, hfault⟩ := resetFlags
  exact {
    admitted := Config.bound.2
    canonical := fun b => by simp [reset_buffer]
    flags := fun _ => hinited
    caps := fun h => by simp [hinited] at h
    registers := fun h => by simp [hinited] at h
    outputs := fun r o h _ => by simp [State.reset] at h }

end Sys2Proof.Machine
end

section
/-!
PROOFS. The delay memories: a canonical memory is what it reads as, a ring is addressed modulo its capacity, and a frame
stores one word in each ring, which moves every other sample one offset back (rules R61, R64, R73, R102, R104).
-/

namespace Sys2Proof.Machine

/-! ## A canonical memory is what it reads as -/

theorem Memory.wfFrom_cons (lo a : Nat) (v : Byte) (m : Memory) :
    Memory.wfFrom lo ((a, v) :: m) = true ↔ lo ≤ a ∧ v ≠ 0 ∧ Memory.wfFrom (a + 1) m = true := by
  simp [Memory.wfFrom, and_assoc]

theorem Memory.byteAt_cons_self (a : Nat) (v : Byte) (m : Memory) : Memory.byteAt ((a, v) :: m) a = v := if_pos rfl

theorem Memory.byteAt_cons_ne {k a : Nat} (v : Byte) (m : Memory) (h : k ≠ a) :
    Memory.byteAt ((k, v) :: m) a = m.byteAt a := if_neg h

/-- No byte but 0 is read below the first address that a canonical memory lists. -/
theorem Memory.head_le_of_byteAt_ne_zero {lo k a : Nat} {v : Byte} {m : Memory}
    (hm : Memory.wfFrom lo ((k, v) :: m) = true) (ha : Memory.byteAt ((k, v) :: m) a ≠ 0) : k ≤ a := by
  obtain ⟨-, hv, hrest⟩ := (Memory.wfFrom_cons lo k v m).mp hm
  have hk : Memory.wfFrom k ((k, v) :: m) = true := (Memory.wfFrom_cons k k v m).mpr ⟨le_rfl, hv, hrest⟩
  by_contra hlt
  exact ha (Memory.byteAt_eq_zero hk (by omega))

/-- Canonical memories that read alike at every byte are equal: the first listed address is the least one that does not
read 0, and without it the rest still read alike. -/
theorem Memory.eq_of_byteAt_eq {m n : Memory} {lo : Nat} (hm : Memory.wfFrom lo m = true)
    (hn : Memory.wfFrom lo n = true) (h : ∀ a, m.byteAt a = n.byteAt a) : m = n := by
  induction m generalizing n lo with
  | nil =>
    cases n with
    | nil => rfl
    | cons d n =>
      obtain ⟨l, w⟩ := d
      obtain ⟨-, hw, -⟩ := (Memory.wfFrom_cons lo l w n).mp hn
      exact absurd ((h l).trans (Memory.byteAt_cons_self l w n)).symm hw
  | cons c m ih =>
    obtain ⟨k, v⟩ := c
    obtain ⟨-, hv, hrest⟩ := (Memory.wfFrom_cons lo k v m).mp hm
    cases n with
    | nil => exact absurd ((Memory.byteAt_cons_self k v m).symm.trans (h k)) hv
    | cons d n =>
      obtain ⟨l, w⟩ := d
      obtain ⟨-, hw, hrest'⟩ := (Memory.wfFrom_cons lo l w n).mp hn
      have hkl : k ≤ l := Memory.head_le_of_byteAt_ne_zero hm (by rwa [h l, Memory.byteAt_cons_self])
      have hlk : l ≤ k := Memory.head_le_of_byteAt_ne_zero hn (by rwa [← h k, Memory.byteAt_cons_self])
      obtain rfl : k = l := le_antisymm hkl hlk
      have hvw : v = w := by simpa only [Memory.byteAt_cons_self] using h k
      have htail : ∀ a, Memory.byteAt m a = Memory.byteAt n a := fun a => by
        by_cases ha : k = a
        · rw [Memory.byteAt_eq_zero hrest (by omega), Memory.byteAt_eq_zero hrest' (by omega)]
        · rw [← Memory.byteAt_cons_ne v m ha, h a, Memory.byteAt_cons_ne w n ha]
      rw [hvw, ih hrest hrest' htail]

/-- A concatenation determines its two parts. -/
theorem parts_eq_of_append_eq {w w' : Nat} {x x' : BitVec w} {y y' : BitVec w'} (h : x ++ y = x' ++ y') :
    x = x' ∧ y = y' := by
  have hx := congrArg (BitVec.extractLsb' w' w) h
  have hy := congrArg (BitVec.extractLsb' 0 w') h
  rw [BitVec.extractLsb'_append_eq_left, BitVec.extractLsb'_append_eq_left] at hx
  rw [BitVec.extractLsb'_append_eq_right, BitVec.extractLsb'_append_eq_right] at hy
  exact ⟨hx, hy⟩

/-- Word `k` holds its four bytes lowest first, so that words that agree have the same bytes (rule R62). -/
theorem Memory.byteAt_eq_of_wordAt_eq {m n : Memory} {k : Nat} (h : m.wordAt k = n.wordAt k) :
    m.byteAt (4 * k + 3) = n.byteAt (4 * k + 3) ∧ m.byteAt (4 * k + 2) = n.byteAt (4 * k + 2) ∧
      m.byteAt (4 * k + 1) = n.byteAt (4 * k + 1) ∧ m.byteAt (4 * k) = n.byteAt (4 * k) := by
  obtain ⟨h321, h0⟩ := parts_eq_of_append_eq h
  obtain ⟨h32, h1⟩ := parts_eq_of_append_eq h321
  obtain ⟨h3, h2⟩ := parts_eq_of_append_eq h32
  exact ⟨h3, h2, h1, h0⟩

theorem Memory.wordAt_eq_of_read_eq {m n : Memory} {k : Nat} (h : m.read k = n.read k) : m.wordAt k = n.wordAt k :=
  BitVec.eq_of_toInt_eq h

/-- Settles O10: equal reads are equal words, equal words are equal bytes, and the bytes determine a canonical memory. -/
theorem canonicalMemoriesReadingAlikeAreEqual : Obligations.CanonicalMemoriesReadingAlikeAreEqual := by
  intro m n hm hn h
  refine Memory.eq_of_byteAt_eq hm hn fun a => ?_
  obtain ⟨h3, h2, h1, h0⟩ := Memory.byteAt_eq_of_wordAt_eq (Memory.wordAt_eq_of_read_eq (h (a / 4)))
  have ha : a = 4 * (a / 4) ∨ a = 4 * (a / 4) + 1 ∨ a = 4 * (a / 4) + 2 ∨ a = 4 * (a / 4) + 3 := by omega
  rcases ha with ha | ha | ha | ha
  · rw [ha]; exact h0
  · rw [ha]; exact h1
  · rw [ha]; exact h2
  · rw [ha]; exact h3

/-! ## The address of a read and the shift of a write -/

/-- `EA(b,d)` is `(CUR[b] + d) mod CAP[b]` (rule R64). -/
theorem DelayBuffer.index_eq_mod {cap : Nat} (hp : isPowerOfTwo cap = true) (k : DelayBuffer) (d : Nat) :
    k.index cap d = (k.cur + d) % cap := and_mask_of_powerOfTwo hp _

/-- Settles O11: the mask of a power of two is the remainder, and a remainder is below the capacity. -/
theorem readAddressesModuloCapacity : Obligations.ReadAddressesModuloCapacity := by
  intro cap k d hcap
  have hp : isPowerOfTwo cap = true := (isPowerOfTwo_iff cap).mpr hcap
  rw [DelayBuffer.read, DelayBuffer.index_eq_mod hp]
  exact ⟨rfl, Nat.mod_lt _ (isPowerOfTwo_pos hp)⟩

/-- After DB.ADVWR the cursor stands one word lower, so offset d + 1 addresses what offset d did (rules R64, R104). -/
theorem DelayBuffer.index_advWrite_succ {cap : Nat} {k : DelayBuffer} (hp : isPowerOfTwo cap = true) (hc : k.cur < cap)
    (v : Int) (d : Nat) : (k.advWrite cap v).index cap (d + 1) = k.index cap d := by
  rw [DelayBuffer.index_eq_mod hp, DelayBuffer.index_eq_mod hp, DelayBuffer.advWrite_cur, cursorBack_eq_mod hp hc,
    Nat.mod_add_mod, show k.cur + (cap - 1) + (d + 1) = k.cur + d + cap by omega, Nat.add_mod_right]

/-- The word that DB.ADVWR is about to overwrite stands at the last offset, `CAP[b] - 1`, alone. -/
theorem DelayBuffer.index_ne_cursorBack {cap d : Nat} {k : DelayBuffer} (hp : isPowerOfTwo cap = true)
    (hc : k.cur < cap) (hd : d + 2 ≤ cap) : k.index cap d ≠ cursorBack cap k.cur := by
  rw [DelayBuffer.index_eq_mod hp, cursorBack_eq_mod hp hc]
  intro h
  have hmod : d ≡ cap - 1 [MOD cap] := Nat.ModEq.add_left_cancel' k.cur h
  have heq : d = cap - 1 := hmod.eq_of_lt_of_lt (by omega) (by omega)
  omega

/-- Law DB2: DB.ADVWR moves every sample but the oldest one offset back (rule R108). -/
theorem DelayBuffer.read_advWrite_succ {cap d : Nat} {k : DelayBuffer} (hp : isPowerOfTwo cap = true)
    (hc : k.cur < cap) (hm : k.mem.wf = true) (v : Int) (hd : d + 2 ≤ cap) :
    (k.advWrite cap v).read cap (d + 1) = k.read cap d := by
  rw [DelayBuffer.read, DelayBuffer.index_advWrite_succ hp hc, DelayBuffer.advWrite_mem, Memory.read_write _ _ hm,
    if_neg (DelayBuffer.index_ne_cursorBack hp hc hd), DelayBuffer.read]

/-- MemWrite of word `k` leaves every byte outside its four (rule R61). -/
theorem Memory.byteAt_write_of_outside {m : Memory} {k a : Nat} (v : Int) (hm : m.wf = true)
    (ha : a < 4 * k ∨ 4 * k + 4 ≤ a) : (m.write k v).byteAt a = m.byteAt a := by
  rw [Memory.write, Memory.byteAt_setWord k _ hm, if_neg (by omega)]

/-! ## One frame -/

@[simp] theorem frame_cap (v : Amplitude) (s : State) (b : Slot) : (frame v s).cap b = s.cap b := by simp [State.cap]

/-- Settles O38: a frame advances and writes each ring once, at the word one below its cursor. -/
theorem procMemoryFrame : Obligations.ProcMemoryFrame := by
  intro s v hf hi hwf
  refine ⟨frame v s, exec_proc_of_ready (s.ready_iff.mpr ⟨hf, hi⟩) v, fun b k hk => ?_⟩
  subst hk
  rw [frame_buffer]
  exact ⟨rfl, fun a ha => Memory.byteAt_write_of_outside _ (hwf b) ha⟩

/-- An initialised block with the invariant is ready: a fault would have left INITED = 0 (rule R232). -/
theorem State.Inv.ready {s : State} (hs : s.Inv) (hi : s.inited = true) : s.ready = true := by
  refine s.ready_iff.mpr ⟨?_, hi⟩
  rw [← Bool.not_eq_true]
  intro hf
  simp [hs.flags hf] at hi

/-- Settles O39: law DB2 in each ring; the invariant gives its legal capacity, its cursor inside the array and its
canonical memory. -/
theorem frameShiftsEveryDelayLine : Obligations.FrameShiftsEveryDelayLine := by
  intro s v hs hi
  refine ⟨frame v s, exec_proc_of_ready (hs.ready hi) v, fun b d hd => ?_⟩
  have hp : isPowerOfTwo (s.cap b) = true := s.cfg.capsOk_iff.mp (hs.caps hi) b
  rw [State.dbRead, frame_buffer, frame_cap]
  exact DelayBuffer.read_advWrite_succ hp ((hs.registers hi).cursor b) (hs.canonical b) _ hd

end Sys2Proof.Machine
end

section
/-!
PROOFS. The command word as its two fields, the opcode map as one equation per row, and what decoding and encoding keep
(rules R83, R86, R87, R89).
-/

namespace Sys2Proof

/-! ## The command word is its two fields (rule R83) -/

/-- The command word with operation field `op` and parameter index `idx`. -/
def word (op : BitVec 2) (idx : BitVec 8) : BitVec 10 := op ++ idx

@[simp] theorem opOf_word (op : BitVec 2) (idx : BitVec 8) : opOf (word op idx) = op :=
  BitVec.extractLsb'_append_eq_left

@[simp] theorem idxOf_word (op : BitVec 2) (idx : BitVec 8) : idxOf (word op idx) = idx :=
  BitVec.extractLsb'_append_eq_right

theorem word_opOf_idxOf (cw : BitVec 10) : word (opOf cw) (idxOf cw) = cw := by
  rw [word, opOf, idxOf, BitVec.extractLsb'_append_extractLsb'_eq_extractLsb' (by rfl)]
  exact BitVec.extractLsb'_eq_self

theorem word_eq_iff (op : BitVec 2) (idx : BitVec 8) (cw : BitVec 10) :
    word op idx = cw ↔ op = opOf cw ∧ idx = idxOf cw := by
  constructor
  · rintro rfl
    simp
  · rintro ⟨rfl, rfl⟩
    exact word_opOf_idxOf cw

/-- The mask of the rows that test the operation field alone clears the parameter index. -/
theorem word_and_opMask (op : BitVec 2) (idx : BitVec 8) : word op idx &&& 0x300#10 = word op 0#8 := by
  have hmask : 0x300#10 = BitVec.allOnes 2 ++ 0#8 := rfl
  rw [word, hmask, BitVec.and_append, BitVec.and_allOnes, BitVec.and_zero, word]

/-- The mask of the three exact rows keeps the word. -/
theorem and_wordMask (cw : BitVec 10) : cw &&& 0x3FF#10 = cw := BitVec.and_allOnes

theorem toNat_word (op : BitVec 2) (idx : BitVec 8) : (word op idx).toNat = 256 * op.toNat + idx.toNat := by
  rw [word, BitVec.toNat_append, ← Nat.shiftLeft_add_eq_or_of_lt idx.isLt, Nat.shiftLeft_eq, mul_comm]

/-- The index of PARAM #n is what rule R86 reads off the number of the word. -/
theorem toNat_word_mod (op : BitVec 2) (idx : BitVec 8) : (word op idx).toNat % 256 = idx.toNat := by
  have hidx := idx.isLt
  rw [toNat_word]
  omega

/-- The sum that the encoder writes for PARAM #n has the operation field 10 and the index n (rule R89). -/
theorem paramOther_word (n : BitVec 8) : 0x200#10 + n.setWidth 10 = word 0b10#2 n := by
  have hn := n.isLt
  apply BitVec.eq_of_toNat_eq
  rw [toNat_word, BitVec.toNat_add, BitVec.toNat_setWidth]
  simp only [BitVec.toNat_ofNat]
  omega

/-! ## The opcode map, row by row (rule R86) -/

/-- The decoder on the two fields: the tests of the rows in their order. -/
theorem decode_word (op : BitVec 2) (idx : BitVec 8) (d : Din) :
    decode ⟨word op idx, d⟩ =
      if op = 0b00#2 then .init
      else if op = 0b01#2 then .proc d
      else if op = 0b10#2 ∧ idx = 0#8 then .paramTime d
      else if op = 0b10#2 ∧ idx = 1#8 then .paramDepth d
      else if op = 0b10#2 ∧ idx = 2#8 then .paramMix d
      else if op = 0b10#2 then .paramOther idx d
      else .resume := by
  rw [decode, idxOf_word]
  simp [Row.selects, rowInit, rowProc, rowParamTime, rowParamDepth, rowParamMix, rowParamOther,
    word_and_opMask, and_wordMask, word_eq_iff, opOf, idxOf]

@[simp] theorem decode_init (idx : BitVec 8) (d : Din) : decode ⟨word 0b00#2 idx, d⟩ = .init := by simp [decode_word]

@[simp] theorem decode_proc (idx : BitVec 8) (d : Din) : decode ⟨word 0b01#2 idx, d⟩ = .proc d := by simp [decode_word]

@[simp] theorem decode_paramTime (d : Din) : decode ⟨word 0b10#2 0#8, d⟩ = .paramTime d := by simp [decode_word]

@[simp] theorem decode_paramDepth (d : Din) : decode ⟨word 0b10#2 1#8, d⟩ = .paramDepth d := by simp [decode_word]

@[simp] theorem decode_paramMix (d : Din) : decode ⟨word 0b10#2 2#8, d⟩ = .paramMix d := by simp [decode_word]

/-- An index from 3 on is none of the three exact rows'. -/
theorem idx_ne_of_three_le {n : BitVec 8} (h : 3 ≤ n.toNat) : n ≠ 0#8 ∧ n ≠ 1#8 ∧ n ≠ 2#8 := by
  refine ⟨?_, ?_, ?_⟩ <;> rintro rfl <;> simp at h

theorem decode_paramOther {n : BitVec 8} (h : 3 ≤ n.toNat) (d : Din) :
    decode ⟨word 0b10#2 n, d⟩ = .paramOther n d := by
  obtain ⟨h0, h1, h2⟩ := idx_ne_of_three_le h
  simp [decode_word, h0, h1, h2]

@[simp] theorem decode_resume (idx : BitVec 8) (d : Din) : decode ⟨word 0b11#2 idx, d⟩ = .resume := by
  simp [decode_word]

/-- Every command is one of a row of the opcode map, PARAM #n with an index from 3 on: the case split of the proofs
about all commands. -/
theorem Command.rowCases {motive : Command → Prop}
    (init : ∀ idx d, motive ⟨word 0b00#2 idx, d⟩)
    (proc : ∀ idx d, motive ⟨word 0b01#2 idx, d⟩)
    (paramTime : ∀ d, motive ⟨word 0b10#2 0#8, d⟩)
    (paramDepth : ∀ d, motive ⟨word 0b10#2 1#8, d⟩)
    (paramMix : ∀ d, motive ⟨word 0b10#2 2#8, d⟩)
    (paramOther : ∀ n d, 3 ≤ n.toNat → motive ⟨word 0b10#2 n, d⟩)
    (resume : ∀ idx d, motive ⟨word 0b11#2 idx, d⟩) (c : Command) : motive c := by
  obtain ⟨cw, d⟩ := c
  rw [← word_opOf_idxOf cw]
  generalize opOf cw = op
  generalize idxOf cw = idx
  have hop : op = 0b00#2 ∨ op = 0b01#2 ∨ op = 0b10#2 ∨ op = 0b11#2 := by bv_omega
  obtain rfl | rfl | rfl | rfl := hop
  · exact init idx d
  · exact proc idx d
  · have hidx : idx = 0#8 ∨ idx = 1#8 ∨ idx = 2#8 ∨ 3 ≤ idx.toNat := by bv_omega
    obtain rfl | rfl | rfl | h := hidx
    · exact paramTime d
    · exact paramDepth d
    · exact paramMix d
    · exact paramOther idx d h
  · exact resume idx d

/-! The encoder on the two fields (rule R89). -/

@[simp] theorem encode_init : encode .init = ⟨word 0b00#2 0#8, .finite 0⟩ := rfl

@[simp] theorem encode_proc (d : Din) : encode (.proc d) = ⟨word 0b01#2 0#8, d⟩ := rfl

@[simp] theorem encode_paramTime (v : Din) : encode (.paramTime v) = ⟨word 0b10#2 0#8, v⟩ := rfl

@[simp] theorem encode_paramDepth (v : Din) : encode (.paramDepth v) = ⟨word 0b10#2 1#8, v⟩ := rfl

@[simp] theorem encode_paramMix (v : Din) : encode (.paramMix v) = ⟨word 0b10#2 2#8, v⟩ := rfl

@[simp] theorem encode_paramOther (n : BitVec 8) (v : Din) : encode (.paramOther n v) = ⟨word 0b10#2 n, v⟩ := by
  rw [encode, paramOther_word]

@[simp] theorem encode_resume : encode .resume = ⟨word 0b11#2 0#8, .finite 0⟩ := rfl

/-- PARAM #n stands for the indices 3..255 (rule R86). -/
theorem wellFormed_paramOther_iff (n : BitVec 8) (v : Din) : (Instr.paramOther n v).WellFormed ↔ 3 ≤ n.toNat :=
  decide_eq_true_iff

/-! ## Decoding and encoding -/

/-- Settles O2: the encoder writes each command's own row with its operands; a well-formed PARAM #n has an index from 3
on, which no exact row takes. -/
theorem decodeEncodeRoundTrip : Obligations.DecodeEncodeRoundTrip := by
  intro i hi
  cases i with
  | paramOther n v =>
    rw [encode_paramOther]
    exact decode_paramOther ((wellFormed_paramOther_iff n v).mp hi) v
  | _ => simp

/-- Settles O5: row by row, the encoder writes the index back where op = 10 and zeros it elsewhere. -/
theorem encodeDecodeKeepsUsedBits : Obligations.EncodeDecodeKeepsUsedBits := by
  intro c
  cases c using Command.rowCases with
  | paramOther n d h => simp [decode_paramOther h]
  | _ => simp [word_and_opMask]

/-- Settles O1: each word is one of a row, written as its two fields. -/
theorem tableWordsDecode : Obligations.TableWordsDecode :=
  ⟨decode_init 0x00#8 _, decode_init 0xAB#8 _, decode_proc 0x00#8 _, decode_proc 0xFF#8 _, decode_paramTime _,
    decode_paramDepth _, decode_paramMix _, decode_paramOther (n := 3#8) (by decide) _,
    decode_paramOther (n := 255#8) (by decide) _, decode_resume 0x00#8 _, decode_resume 0xFF#8 _⟩

/-- Settles O3, row by row: each mask test is a test of the two fields, so that a command meets the premise of its own
clause alone and is counted once. -/
theorem decodeFollowsOpcodeMap : Obligations.DecodeFollowsOpcodeMap := by
  intro c
  cases c using Command.rowCases with
  | paramOther n d h =>
    obtain ⟨h0, h1, h2⟩ := idx_ne_of_three_le h
    simp [decode_paramOther h, word_and_opMask, and_wordMask, word_eq_iff, toNat_word_mod, opOf, idxOf, h, h0, h1, h2]
  | _ => simp [word_and_opMask, and_wordMask, word_eq_iff, toNat_word_mod, opOf, idxOf]

/-- Settles O4: only the row PARAM #n is in question, and it takes the indices from 3 on. -/
theorem decodedIsWellFormed : Obligations.DecodedIsWellFormed := by
  intro c
  cases c using Command.rowCases with
  | paramOther n d h =>
    rw [decode_paramOther h]
    exact (wellFormed_paramOther_iff n d).mpr h
  | _ => simp [Instr.WellFormed, Instr.wellFormed]

end Sys2Proof
end

section
/-!
PROOFS. The step on the command port, and what a command answers (rules R80, R81, R84, R206, R234).
-/

namespace Sys2Proof

/-! ## A number given from outside (rule R83) -/

theorem commandOf_of_lt {w : Nat} (h : w < 1024) (d : Din) : commandOf w d = .ok ⟨BitVec.ofNat 10 w, d⟩ := if_pos h

theorem commandOf_of_ge {w : Nat} (h : 1024 ≤ w) (d : Din) : commandOf w d = .error (.notTenBits w) :=
  if_neg (Nat.not_lt.mpr h)

theorem decodeTableWord_of_lt (n : Nat) {w : Nat} (h : w < 1024) :
    decodeTableWord n w = some (decode ⟨BitVec.ofNat 10 w, .finite 0⟩) := by
  simp [decodeTableWord, decodeNumber, commandOf_of_lt h]

theorem decodeTableWord_eq_none_iff (n w : Nat) : decodeTableWord n w = none ↔ 1024 ≤ w := by
  rcases Nat.lt_or_ge w 1024 with h | h
  · simp [decodeTableWord_of_lt n h, h]
  · simp [decodeTableWord, decodeNumber, commandOf_of_ge h, h]

namespace Machine

theorem State.withFetchWord_of_lt (s : State) (n : Nat) {w : Nat} (h : w < 1024) :
    s.withFetchWord n w = s.present ⟨BitVec.ofNat 10 w, .finite 0⟩ := by
  simp [State.withFetchWord, commandOf_of_lt h]

/-- A presented command is the next to run, on the state it was presented to (rule R81). -/
theorem step_present (s : State) (c : Command) : step (s.present c) = exec (decode c) s :=
  step_of_pending_cons (s.present_pending c)

/-- Settles O6: the port with a command on it and the empty port. -/
theorem stepRunsDecodedCommand : Obligations.StepRunsDecodedCommand :=
  ⟨fun _ _ _ h => step_of_pending_cons h, fun _ h => step_of_pending_nil h⟩

/-- Settles O7: a number below 1024 stands for the command that is presented, and only such a number decodes. -/
theorem presentedRowRunsNext : Obligations.PresentedRowRunsNext := by
  refine ⟨fun s n w i hi => ?_, decodeTableWord_eq_none_iff⟩
  have hw : w < 1024 := by
    rw [← Nat.not_le, ← decodeTableWord_eq_none_iff n w, hi]
    simp
  rw [decodeTableWord_of_lt n hw, Option.some.injEq] at hi
  rw [s.withFetchWord_of_lt n hw, step_present, hi]

/-- Settles O24: a ready block runs the command, and each of the four looks at DIN first. -/
theorem nonFiniteOperandStops : Obligations.NonFiniteOperandStops := by
  intro s hf hi
  have hr : s.ready = true := s.ready_iff.mpr ⟨hf, hi⟩
  exact ⟨whenReady_of_ready hr _, whenReady_of_ready hr _, whenReady_of_ready hr _, whenReady_of_ready hr _⟩

/-- Settles O52: of the two forms of a response only a frame's carries outputs. -/
theorem outputsOnlyFromFrames : Obligations.OutputsOnlyFromFrames := by
  intro i s t r o h hr ho
  have hd := exec_next h
  obtain ⟨hs, hlr⟩ := hd.outputs r o hr ho
  refine ⟨hs, hlr, ?_⟩
  obtain ⟨v, -, hi, -⟩ | ⟨st, hst⟩ := hd.resp_cases
  · exact ⟨v, hi⟩
  · rw [hst, Option.some.injEq] at hr
    simp [← hr] at ho

end Machine

end Sys2Proof
end

section
/-!
PROOFS. One Delay Buffer as a delay line: its access laws and what a run of writes after a reset leaves in it (rules
R102, R104, R106, R108).
-/

namespace Sys2Proof.Machine

/-! ## One access -/

/-- Settles O13: a reset buffer lists no byte. -/
theorem resetClearsBuffer : Obligations.ResetClearsBuffer := fun _ => ⟨Memory.read_nil, rfl, rfl⟩

/-- Settles O12: the cursor one step back is a remainder, and DB.ADVWR writes the word there alone. -/
theorem advanceAndWrite : Obligations.AdvanceAndWrite := by
  intro cap k v hcap hc hm
  have hcur := cursorBack_eq_mod ((isPowerOfTwo_iff cap).mpr hcap) hc
  refine ⟨hcur, fun j => ?_, rfl⟩
  rw [DelayBuffer.advWrite_mem, hcur]
  exact Memory.read_write _ v hm j

/-- Offset 0 addresses the cursor's own word (rule R64). -/
theorem DelayBuffer.index_zero {cap : Nat} {k : DelayBuffer} (hp : isPowerOfTwo cap = true) (hc : k.cur < cap) :
    k.index cap 0 = k.cur := by
  rw [DelayBuffer.index_eq_mod hp, Nat.add_zero, Nat.mod_eq_of_lt hc]

/-- DB.ADVWR keeps the cursor inside the array (rule R104). -/
theorem DelayBuffer.advWrite_cur_lt {cap : Nat} {k : DelayBuffer} (hp : isPowerOfTwo cap = true) (hc : k.cur < cap)
    (v : Int) : (k.advWrite cap v).cur < cap := cursorBack_lt hp hc

/-- Law DB1: offset 0 reads the value just written, narrowed (rule R108). -/
theorem DelayBuffer.read_advWrite_zero {cap : Nat} {k : DelayBuffer} (hp : isPowerOfTwo cap = true) (hc : k.cur < cap)
    (hm : k.mem.wf = true) (v : Int) : (k.advWrite cap v).read cap 0 = wrap32 v := by
  rw [DelayBuffer.read, DelayBuffer.index_zero hp (DelayBuffer.advWrite_cur_lt hp hc v), DelayBuffer.advWrite_mem,
    DelayBuffer.advWrite_cur, Memory.read_write _ _ hm, if_pos rfl]

/-- Settles O14: laws DB1 and DB2. -/
theorem writeShiftsDelayLine : Obligations.WriteShiftsDelayLine := by
  intro cap k v hcap hc hm
  have hp : isPowerOfTwo cap = true := (isPowerOfTwo_iff cap).mpr hcap
  exact ⟨DelayBuffer.read_advWrite_zero hp hc hm v, fun _ hd => DelayBuffer.read_advWrite_succ hp hc hm v hd⟩

/-- Settles O15: the two offsets have one remainder modulo the capacity, hence one address. -/
theorem readWrapsAround : Obligations.ReadWrapsAround := by
  intro cap k d hcap
  have hp : isPowerOfTwo cap = true := (isPowerOfTwo_iff cap).mpr hcap
  have hindex : k.index cap (d + cap) = k.index cap d := by
    rw [DelayBuffer.index_eq_mod hp, DelayBuffer.index_eq_mod hp, ← Nat.add_assoc, Nat.add_mod_right]
  rw [DelayBuffer.read, hindex, DelayBuffer.read]

/-! ## A run of writes after a reset -/

/-- DB.RESET and then one DB.ADVWR for each value, the first one first. -/
def DelayBuffer.resetAndWrite (cap : Nat) (k : DelayBuffer) (vs : List Int) : DelayBuffer :=
  vs.foldl (fun b v => b.advWrite cap v) k.reset

@[simp] theorem DelayBuffer.resetAndWrite_nil (cap : Nat) (k : DelayBuffer) : k.resetAndWrite cap [] = k.reset := rfl

@[simp] theorem DelayBuffer.resetAndWrite_concat (cap : Nat) (k : DelayBuffer) (vs : List Int) (v : Int) :
    k.resetAndWrite cap (vs ++ [v]) = (k.resetAndWrite cap vs).advWrite cap v := by
  simp [DelayBuffer.resetAndWrite]

theorem DelayBuffer.resetAndWrite_wf (cap : Nat) (k : DelayBuffer) (vs : List Int) :
    (k.resetAndWrite cap vs).mem.wf = true := by
  induction vs using List.reverseRecOn with
  | nil => rfl
  | append_singleton vs v ih =>
    rw [DelayBuffer.resetAndWrite_concat]
    exact DelayBuffer.advWrite_wf cap ih v

theorem DelayBuffer.resetAndWrite_cur_lt {cap : Nat} (hp : isPowerOfTwo cap = true) (k : DelayBuffer) (vs : List Int) :
    (k.resetAndWrite cap vs).cur < cap := by
  induction vs using List.reverseRecOn with
  | nil => exact isPowerOfTwo_pos hp
  | append_singleton vs v ih =>
    rw [DelayBuffer.resetAndWrite_concat]
    exact DelayBuffer.advWrite_cur_lt hp ih v

/-- Law DB4: the newest value is read by DB1, an older one stood one offset nearer before the last write by DB2. -/
theorem DelayBuffer.read_resetAndWrite {cap : Nat} (hp : isPowerOfTwo cap = true) (k : DelayBuffer) (vs : List Int)
    {d : Nat} (hd : d < cap) : (k.resetAndWrite cap vs).read cap d = wrap32 (vs.reverse[d]?.getD 0) := by
  induction vs using List.reverseRecOn generalizing d with
  | nil => simpa using DelayBuffer.read_of_clear cap k.reset_mem d
  | append_singleton vs v ih =>
    have hc := DelayBuffer.resetAndWrite_cur_lt hp k vs
    have hm := DelayBuffer.resetAndWrite_wf cap k vs
    rw [DelayBuffer.resetAndWrite_concat, List.reverse_concat]
    cases d with
    | zero => exact DelayBuffer.read_advWrite_zero hp hc hm v
    | succ d =>
      rw [DelayBuffer.read_advWrite_succ hp hc hm v hd, List.getElem?_cons_succ]
      exact ih (Nat.lt_of_succ_lt hd)

/-- Settles O16: law DB4, by induction on the run from its last write. -/
theorem ringReadsHistory : Obligations.RingReadsHistory := fun cap k vs _ hcap hd =>
  DelayBuffer.read_resetAndWrite ((isPowerOfTwo_iff cap).mpr hcap) k vs hd

/-- The cursor one step back, as `(CUR[b] - 1) mod CAP[b]` over the integers (rule R104). -/
theorem cursorBack_eq_emod {cap cur : Nat} (hp : isPowerOfTwo cap = true) (hc : cur < cap) :
    (cursorBack cap cur : Int) = ((cur : Int) - 1) % cap := by
  have hsum : ((cur + (cap - 1) : Nat) : Int) = (cur : Int) - 1 + cap := by omega
  rw [cursorBack_eq_mod hp hc, Int.natCast_mod, hsum, Int.add_emod_right]

/-- Law DB5: each write takes one step back from the cursor 0, which is `CAP[b]` modulo the capacity. -/
theorem DelayBuffer.resetAndWrite_cur {cap : Nat} (hp : isPowerOfTwo cap = true) (k : DelayBuffer) (vs : List Int) :
    ((k.resetAndWrite cap vs).cur : Int) = ((cap : Int) - vs.length) % cap := by
  induction vs using List.reverseRecOn with
  | nil => simp
  | append_singleton vs v ih =>
    have hc := DelayBuffer.resetAndWrite_cur_lt hp k vs
    have hlen : (cap : Int) - (vs ++ [v]).length = cap - vs.length - 1 := by
      rw [List.length_append, List.length_singleton, Nat.cast_add, Nat.cast_one, Int.sub_sub]
    rw [DelayBuffer.resetAndWrite_concat, DelayBuffer.advWrite_cur, cursorBack_eq_emod hp hc, ih,
      Int.emod_sub_emod, hlen]

/-- Settles O17: law DB5. -/
theorem ringWriteIndex : Obligations.RingWriteIndex := fun cap k vs hcap =>
  DelayBuffer.resetAndWrite_cur ((isPowerOfTwo_iff cap).mpr hcap) k vs

end Sys2Proof.Machine
end

section
/-!
PROOFS. The Gain Table: the row that a time selects, and the comb gains that are loaded from it (rules R122, R126, R212).
-/

namespace Sys2Proof.Machine

/-! ## The row of a time (rule R122) -/

/-- GT.INDEX with the library's floor. -/
theorem gtIndex_val_eq_floor (t : Amplitude) : ((gtIndex t).val : Int) = min 64 (max 0 ⌊64 * t⌋) := gtIndex_val t

theorem gtIndex_eq_zero {t : Amplitude} (h : t < 1 / 64) : gtIndex t = 0 := by
  have hfloor : ⌊64 * t⌋ < 1 := Int.floor_lt.mpr (by norm_num; linarith)
  have hval := gtIndex_val_eq_floor t
  apply Fin.ext
  rw [Fin.val_zero]
  omega

theorem gtIndex_eq_last_iff (t : Amplitude) : (gtIndex t).val = 64 ↔ 1 ≤ t := by
  have hfloor : 64 ≤ ⌊64 * t⌋ ↔ 1 ≤ t := by
    rw [Int.le_floor]
    norm_num
  have hval := gtIndex_val_eq_floor t
  rw [← hfloor]
  omega

/-- Settles O18: the last row is reached from 1 on, which on [0,1] is 1 alone. -/
theorem gainTableIndex : Obligations.GainTableIndex :=
  ⟨gtIndex_val_eq_floor, fun t _ h1 => (gtIndex_eq_last_iff t).trans ⟨h1.antisymm, ge_of_eq⟩⟩

/-! ## GAIN.LOAD (rule R126) -/

theorem gainLoad_gain_early (s : State) (j : Fin 3) :
    ((gainLoad s).buffer (.comb (j.castAdd 3))).gain = (s.cfg.gt.get 1).get (j.castAdd 3) := by
  simp [gainLoad_buffer, gainRow_early, gtRow]

theorem gainLoad_gain_late (s : State) (k : Fin 3) :
    ((gainLoad s).buffer (.comb (k.natAdd 3))).gain = (s.cfg.gt.get s.tidx).get (k.natAdd 3) := by
  simp [gainLoad_buffer, gainRow_late, gtRow]

theorem gainLoad_ring (s : State) (b : Slot) :
    ((gainLoad s).buffer b).mem = (s.buffer b).mem ∧ ((gainLoad s).buffer b).cur = (s.buffer b).cur := by
  cases b <;> simp [gainLoad_buffer]

/-- Settles O19: the buffers in closed form, and no other field is written. -/
theorem gainLoadPolicy : Obligations.GainLoadPolicy := fun s =>
  ⟨gainLoad_gain_early s, gainLoad_gain_late s, fun i => gainLoad_buffer s (.ap i), gainLoad_ring s, rfl⟩

/-! ## PARAM time below 1/64 (rule R212, property EP4) -/

/-- PARAM time of a finite operand on a ready block loads the registers and ends done (rule R212). -/
theorem exec_paramTime_of_ready {s : State} (h : s.ready = true) (v : Amplitude) :
    exec (.paramTime (.finite v)) s = .next (setTime v s).endDone :=
  whenReady_of_ready h _

theorem clip01_lt {v a : Amplitude} (ha : 0 < a) (h : v < a) : clip01 v < a :=
  (min_le_right _ _).trans_lt (max_lt ha h)

/-- Settles O27: the clamped time is still below 1/64, so it selects row 0, which an admitted table has all zero. -/
theorem timeZeroSilencesStageAGains : Obligations.TimeZeroSilencesStageAGains := by
  intro s v hadm hf hi hv
  have hrow : gtIndex (clip01 v) = 0 := gtIndex_eq_zero (clip01_lt (by norm_num) hv)
  refine ⟨(setTime v s).endDone, exec_paramTime_of_ready (s.ready_iff.mpr ⟨hf, hi⟩) v, fun k => ?_, fun j => ?_⟩
  · rw [State.gain, State.buffer_endDone, setTime, gainLoad_gain_late, State.writeTime_tidx, hrow]
    exact congrArg BitVec.toInt (Cfg.rowZero_of_admitted hadm _)
  · rw [State.buffer_endDone, setTime, gainLoad_gain_early, State.writeTime_cfg]

end Sys2Proof.Machine
end

section
/-!
PROOFS. The Comb Network, the wet path and the output of one frame, and what they depend on (rules R140, R145, R150,
R152, R162, R164, R176, R202, R204, R206).
-/

namespace Sys2Proof.Machine

/-! ## The input sample (rule R202) -/

theorem frameX_eq (v : Amplitude) (s : State) :
    frameX v s = if s.cfg.InContract (rampedInput v s) then s.cfg.num.toFix (rampedInput v s)
      else (Config.freeSample s.freeCount).toInt := by
  unfold frameX sampleIn
  split <;> rfl

theorem frameX_of_inContract {v : Amplitude} {s : State} (h : s.cfg.InContract (rampedInput v s)) :
    frameX v s = s.cfg.num.toFix (rampedInput v s) := by
  rw [frameX_eq, if_pos h]

theorem frameX_range_of_not_inContract {v : Amplitude} {s : State} (h : ¬ s.cfg.InContract (rampedInput v s)) :
    -2 ^ 31 ≤ frameX v s ∧ frameX v s < 2 ^ 31 := by
  rw [frameX_eq, if_neg h]
  exact ⟨BitVec.le_toInt _, BitVec.toInt_lt⟩

theorem frameX_congr (v : Amplitude) {s t : State} (hc : t.cfg = s.cfg) (hr : t.ramp = s.ramp)
    (hn : t.freeCount = s.freeCount) : frameX v t = frameX v s := by
  rw [frameX_eq, frameX_eq, rampedInput, rampedInput, hc, hr, hn]

/-! ## The comb slots of a frame (rules R140, R145) -/

theorem frameStore_slotA (v : Amplitude) (s : State) (k : Fin 3) :
    frameStore v s (slotA k) = storeA (frameX v s) s k := by
  fin_cases k <;> rfl

theorem frameStore_slotB (v : Amplitude) (s : State) (j : Fin 3) :
    frameStore v s (slotB j) = storeB (frameSums s) s j := by
  fin_cases j <;> rfl

/-- The accumulator `sum[j]` of a frame collects the cross reads of C3, C4, C5 for destination j (rule R140). -/
theorem frameSums_sum (s : State) (j : Fin 3) :
    (frameSums s).sum j = crossA s 0 j + crossA s 1 j + crossA s 2 j := by
  fin_cases j <;> rfl

theorem frame_buffer_slotA (v : Amplitude) (s : State) (k : Fin 3) :
    (frame v s).buffer (slotA k) = (s.buffer (slotA k)).advWrite (s.cap (slotA k)) (storeA (frameX v s) s k) := by
  rw [frame_buffer, frameStore_slotA]

theorem frame_buffer_slotB (v : Amplitude) (s : State) (j : Fin 3) :
    (frame v s).buffer (slotB j) =
      (s.buffer (slotB j)).advWrite (s.cap (slotB j)) (storeB (frameSums s) s j) := by
  rw [frame_buffer, frameStore_slotB]

/-- Settles O34: the frame in closed form at the slots of either stage; the input sample is `frameX`. -/
theorem procCombNetwork : Obligations.ProcCombNetwork := by
  intro s v hf hi a z cross sum1 sum
  have hcontract : s.cfg.InContract (rampedInput v s) ↔ |a| * 2 ^ s.cfg.sampleFrac < 2 ^ 31 := inContract_iff s.cfg a
  refine ⟨frame v s, frameX v s, exec_proc_of_ready (s.ready_iff.mpr ⟨hf, hi⟩) v,
    fun hin => frameX_of_inContract (hcontract.mpr hin),
    fun hout => frameX_range_of_not_inContract (mt hcontract.mp (not_lt.mpr hout)), fun k => ?_, fun j => ?_⟩
  · have hstore : storeA (frameX v s) s k = frameX v s + z (k.natAdd 3) * s.gain (slotA k) / 4096 := by
      rw [storeA, scaleQ12_eq]
      rfl
    exact (frame_buffer_slotA v s k).trans (congrArg _ hstore)
  · have hstore : storeB (frameSums s) s j = (sum1 + sum j) / 4 + z (j.castAdd 3) * s.gain (slotB j) / 4096 := by
      rw [storeB, asr_two, scaleQ12_eq, frameSums_sum]
      rfl
    exact (frame_buffer_slotB v s j).trans (congrArg _ hstore)

/-! ## What the Comb Network depends on (law CB3 of rule R152, rule R150) -/

section TwoRuns

variable (v : Amplitude) {s t : State} (hc : t.cfg = s.cfg)
  (hA : ∀ k, t.buffer (slotA k) = s.buffer (slotA k))
include hc hA

theorem frameSums_congr : frameSums t = frameSums s := by
  simp only [frameSums, preA_congr hA hc, crossA_congr hA hc]

/-- Stage A after a frame is a function of the configuration, the input sample and stage A before it. -/
theorem frame_slotA_congr (hr : t.ramp = s.ramp) (hn : t.freeCount = s.freeCount) (k : Fin 3) :
    (frame v t).buffer (slotA k) = (frame v s).buffer (slotA k) := by
  rw [frame_buffer_slotA, frame_buffer_slotA, hA, storeA_congr _ hA hc, frameX_congr v hc hr hn, State.cap, hc]
  rfl

/-- Stage B after a frame is a function of the configuration and the comb buffers before it. -/
theorem frame_slotB_congr (hB : ∀ j, t.buffer (slotB j) = s.buffer (slotB j)) (j : Fin 3) :
    (frame v t).buffer (slotB j) = (frame v s).buffer (slotB j) := by
  rw [frame_buffer_slotB, frame_buffer_slotB, hB, storeB_congr _ hB hc, frameSums_congr hc hA, State.cap, hc]
  rfl

end TwoRuns

/-- Settles O43: the stored values of stage A read stage A, its gains and the input sample alone. -/
theorem stageAIgnoresTheRest : Obligations.StageAIgnoresTheRest := by
  intro s t v hfs his hft hit hcfg hramp hfree hA
  exact ⟨frame v s, frame v t, exec_proc_of_ready (s.ready_iff.mpr ⟨hfs, his⟩) v,
    exec_proc_of_ready (t.ready_iff.mpr ⟨hft, hit⟩) v, frame_slotA_congr v hcfg hA hramp hfree⟩

/-- Settles O44: the slots C0..C2 are stage B, and C3..C5 are stage A. -/
theorem combNetworkIgnoresDepthAndMix : Obligations.CombNetworkIgnoresDepthAndMix := by
  intro s t v hfs his hft hit hcfg hramp hfree hcomb
  have hA : ∀ k, s.buffer (slotA k) = t.buffer (slotA k) := fun k => hcomb (k.natAdd 3)
  have hB : ∀ j, s.buffer (slotB j) = t.buffer (slotB j) := fun j => hcomb (j.castAdd 3)
  exact ⟨frame v s, frame v t, exec_proc_of_ready (s.ready_iff.mpr ⟨hfs, his⟩) v,
    exec_proc_of_ready (t.ready_iff.mpr ⟨hft, hit⟩) v,
    Fin.addCases (m := 3) (n := 3) (frame_slotB_congr v hcfg hA hB) (frame_slotA_congr v hcfg hA hramp hfree)⟩

/-! ## The mixer and the limiter (rules R176, R204) -/

/-- MIX.OUT with the choice of the dry path written as a test (rules R9, R204). -/
theorem mixOut_eq (cfg : Cfg) (mix v a : Amplitude) (w : Int) :
    mixOut cfg mix v a w =
      cfg.num.rnd (cfg.num.rnd (cfg.num.rnd (1 - mix) * (if cfg.drySrc = .raw then v else a))
        + cfg.num.rnd (mix * cfg.num.toAmp w)) := by
  unfold mixOut
  cases cfg.drySrc <;> rfl

/-- Without a wet sample MIX.OUT is the dry path alone. -/
theorem mixOut_of_wet_zero {cfg : Cfg} (hn : cfg.num.Lawful cfg) (mix v a : Amplitude) :
    mixOut cfg mix v a 0 =
      cfg.num.rnd (cfg.num.rnd (cfg.num.rnd (1 - mix) * (if cfg.drySrc = .raw then v else a))) := by
  rw [mixOut_eq, hn.toAmp_zero, mul_zero, hn.rnd_zero, add_zero]

theorem limit_of_pos (cfg : Cfg) {c y : Amplitude} (hc : c ≤ y) (hy : 0 < y) :
    limit cfg c y = cfg.num.rnd (c + cfg.softclip c (cfg.num.rnd (y - c))) := by
  have habs : |y| = y := abs_of_pos hy
  have hsgn : sgn y = 1 := by rw [sgn, if_neg hy.not_gt, if_neg hy.ne']
  rw [limit_of_ge cfg (habs.symm ▸ hc), habs, hsgn, one_mul]

theorem limit_of_neg (cfg : Cfg) {c y : Amplitude} (hc : c ≤ -y) (hy : y < 0) :
    limit cfg c y = -cfg.num.rnd (c + cfg.softclip c (cfg.num.rnd (-y - c))) := by
  have habs : |y| = -y := abs_of_neg hy
  have hsgn : sgn y = -1 := if_pos hy
  rw [limit_of_ge cfg (habs.symm ▸ hc), habs, hsgn, neg_one_mul]

/-! ## The wet path of a frame (rules R150, R162, R164) -/

/-- DEPTH.SCALE with the library's floor (rule R150). -/
theorem depthScale_eq (depth : Amplitude) (sum2 : Int) : depthScale depth sum2 = sum2 * ⌊4096 * depth⌋ / 4096 :=
  scaleQ12_eq _ _

theorem feedIn_eq (s : State) (i : Fin 4) (v : Int) : feedIn s i v = v + tapA s i * s.gain (.ap i) / 4096 := by
  rw [feedIn, scaleQ12_eq]

theorem stageOut_eq (s : State) (i : Fin 4) (v : Int) :
    stageOut s i v = tapA s i - feedIn s i v * s.gain (.ap i) / 4096 := by
  rw [stageOut, scaleQ12_eq]

/-- Settles O35: `feed` and `out` are those of the chain on its stage inputs, `y` is the mixer's output, and the limiter
is taken at, above and below its ceiling. -/
theorem procWetPathAndOutput : Obligations.ProcWetPathAndOutput := by
  intro s v hf hi n z g sum2
  refine ⟨frame v s, fun i => feedIn s i (stageIn s (frameApin s) i), fun i => stageOut s i (stageIn s (frameApin s) i),
    mixOut s.cfg s.mix v (rampedInput v s) (frameWet s), frameOut v s,
    exec_proc_of_ready (s.ready_iff.mpr ⟨hf, hi⟩) v, ?feed0, feedIn_eq s 1 _, feedIn_eq s 2 _, feedIn_eq s 3 _,
    fun i => stageOut_eq s i _, fun i => frame_buffer v s (.ap i), mixOut_eq .., limit_of_lt s.cfg, limit_of_pos s.cfg,
    limit_of_neg s.cfg, frame_resp v s⟩
  case feed0 =>
    have hapin : stageIn s (frameApin s) 0 = sum2 * ⌊4096 * s.depth⌋ / 4096 := depthScale_eq s.depth sum2
    exact (feedIn_eq s 0 _).trans (congrArg (· + _) hapin)

/-! ## A chain that carries nothing -/

/-- A read of a clear memory is 0 (rule R102). -/
theorem State.dbRead_of_clear {s : State} {b : Slot} (h : (s.buffer b).mem = []) (d : Nat) : s.dbRead b d = 0 :=
  DelayBuffer.read_of_clear _ h d

/-- A ring that stores 0 in a clear memory is clear after the frame. -/
theorem frame_clear {v : Amplitude} {s : State} {b : Slot} (h : (s.buffer b).mem = []) (hs : frameStore v s b = 0) :
    ((frame v s).buffer b).mem = [] := by
  rw [frame_buffer, hs]
  exact DelayBuffer.advWrite_clear _ h

section ClearChain

variable {s : State} (hap : ∀ i, (s.buffer (.ap i)).mem = [])
include hap

theorem feedIn_zero_of_clear (i : Fin 4) : feedIn s i 0 = 0 := by
  rw [feedIn, tapA, State.dbRead_of_clear (hap i), scaleQ12_zero_left, add_zero]

theorem stageOut_zero_of_clear (i : Fin 4) : stageOut s i 0 = 0 := by
  rw [stageOut, feedIn_zero_of_clear hap, tapA, State.dbRead_of_clear (hap i), scaleQ12_zero_left, sub_zero]

theorem stageIn_zero_of_clear (i : Fin 4) : stageIn s 0 i = 0 := by
  fin_cases i <;> simp [stageIn, stageOut_zero_of_clear hap]

variable (hapin : frameApin s = 0)
include hapin

theorem frameWet_eq_zero : frameWet s = 0 := by
  rw [frameWet, hapin, stageIn_zero_of_clear hap, stageOut_zero_of_clear hap]

theorem frameStore_ap_eq_zero (v : Amplitude) (i : Fin 4) : frameStore v s (.ap i) = 0 := by
  rw [frameStore, hapin, stageIn_zero_of_clear hap, feedIn_zero_of_clear hap]

/-- With nothing to carry in the chain the output is the limited dry path. -/
theorem frameOut_of_dry (hn : s.cfg.num.Lawful s.cfg) (v : Amplitude) :
    frameOut v s = limit s.cfg s.cfg.ceil (s.cfg.num.rnd (s.cfg.num.rnd (s.cfg.num.rnd (1 - s.mix) *
      (if s.cfg.drySrc = .raw then v else rampedInput v s)))) := by
  rw [frameOut, frameWet_eq_zero hap hapin, mixOut_of_wet_zero hn]

end ClearChain

/-- DEPTH = 0 hands nothing to the chain (rule R150). -/
theorem frameApin_of_depth_zero {s : State} (h : s.depth = 0) : frameApin s = 0 := by
  rw [frameApin, depthScale_eq, h]
  simp

/-- Settles O41: at DEPTH 0 nothing enters the clear chain. -/
theorem depthZeroGivesDryPath : Obligations.DepthZeroGivesDryPath := by
  intro s v hadm hf hi hdepth hap n o
  have hapin : frameApin s = 0 := frameApin_of_depth_zero hdepth
  have hout : frameOut v s = o := frameOut_of_dry hap hapin (Cfg.lawful_of_admitted hadm) v
  exact ⟨frame v s, exec_proc_of_ready (s.ready_iff.mpr ⟨hf, hi⟩) v, by rw [frame_resp, hout],
    fun i => frame_clear (hap i) (frameStore_ap_eq_zero hap hapin v i)⟩

/-! ## Silence (law CB1 of rule R152, property EP1) -/

theorem rampedInput_zero {s : State} (hn : s.cfg.num.Lawful s.cfg) : rampedInput 0 s = 0 := by
  rw [rampedInput, zero_mul, hn.rnd_zero]

theorem frameX_zero {s : State} (hn : s.cfg.num.Lawful s.cfg) : frameX 0 s = 0 := by
  have hin : s.cfg.InContract (rampedInput 0 s) := by
    rw [rampedInput_zero hn]
    simp [Cfg.InContract]
  rw [frameX_of_inContract hin, rampedInput_zero hn, hn.toFix_zero]

section Silence

variable {s : State} (hclear : ∀ b, (s.buffer b).mem = [])
include hclear

theorem frameApin_of_clear : frameApin s = 0 := by
  simp [frameApin, depthScale, preB, State.dbRead_of_clear (hclear _)]

theorem storeA_of_clear (x : Int) (k : Fin 3) : storeA x s k = x := by
  rw [storeA, preA, State.dbRead_of_clear (hclear _), scaleQ12_zero_left, add_zero]

theorem storeB_of_clear (j : Fin 3) : storeB (frameSums s) s j = 0 := by
  have hread : ∀ b d, s.dbRead b d = 0 := fun b => State.dbRead_of_clear (hclear b)
  have hsum1 : (frameSums s).sum1 = 0 := by simp [frameSums, preA, hread]
  have hsum : (frameSums s).sum j = 0 := by simp [frameSums_sum, crossA, hread]
  rw [storeB, hsum1, hsum, preB, hread, scaleQ12_zero_left, add_zero, add_zero, asr_zero]

theorem frameStore_zero_of_clear (hn : s.cfg.num.Lawful s.cfg) (b : Slot) : frameStore 0 s b = 0 := by
  cases b with
  | comb i =>
    refine Fin.addCases (m := 3) (n := 3) (motive := fun i => frameStore 0 s (.comb i) = 0)
      (fun j => ?_) (fun k => ?_) i
    · exact (frameStore_slotB 0 s j).trans (storeB_of_clear hclear j)
    · refine (frameStore_slotA 0 s k).trans ?_
      rw [storeA_of_clear hclear, frameX_zero hn]
  | ap i => exact frameStore_ap_eq_zero (fun i => hclear (.ap i)) (frameApin_of_clear hclear) 0 i

end Silence

/-- Settles O40: every store of the frame is 0, and the limited dry path of a zero input is 0. -/
theorem silenceIsKept : Obligations.SilenceIsKept := by
  intro s hadm hf hi hclear
  have hn := Cfg.lawful_of_admitted hadm
  have hout : frameOut 0 s = 0 := by
    rw [frameOut_of_dry (fun i => hclear (.ap i)) (frameApin_of_clear hclear) hn, rampedInput_zero hn, ite_self,
      mul_zero, hn.rnd_zero, hn.rnd_zero, limit_zero _ (Cfg.scalars_of_admitted hadm).2.1]
  exact ⟨frame 0 s, exec_proc_of_ready (s.ready_iff.mpr ⟨hf, hi⟩) 0, by rw [frame_resp, hout],
    fun b => frame_clear (hclear b) (frameStore_zero_of_clear hclear hn b)⟩

end Sys2Proof.Machine
end

section
/-!
PROOFS. The bounds of the All-Pass Chain (rule R166): no scaling increases a magnitude, so each stage adds at most the
magnitudes of its two uses of the sample read.
-/

namespace Sys2Proof.Machine

/-! ## What enters the chain (rules R102, R145, R150) -/

theorem State.abs_dbRead_le (s : State) (b : Slot) (d : Nat) : |s.dbRead b d| ≤ 2 ^ 31 :=
  have hr := (s.buffer b).read_range (s.cap b) d
  abs_le.mpr ⟨hr.1, hr.2.le⟩

/-- `sum2` is a sum of three samples. -/
theorem abs_combB_fst_le (t : StageSums) (s : State) : |(combB t s).1| ≤ 3 * 2 ^ 31 := by
  have hread (j : Fin 3) : |preB s j| ≤ 2 ^ 31 := s.abs_dbRead_le _ _
  rw [combB_eq]
  calc |preB s 0 + preB s 1 + preB s 2| ≤ |preB s 0| + |preB s 1| + |preB s 2| := abs_add_three ..
    _ ≤ 3 * 2 ^ 31 := by linarith [hread 0, hread 1, hread 2]

theorem abs_floorQ12_le {d : Amplitude} (hd : InUnit d) : |floorQ12 d| ≤ 4096 := by
  have h0 : 0 ≤ ⌊4096 * d⌋ := Int.floor_nonneg.mpr (by linarith [hd.1])
  have h1 : ⌊4096 * d⌋ ≤ 4096 := Int.floor_le_iff.mpr (by push_cast; linarith [hd.2])
  exact (abs_of_nonneg h0).trans_le h1

theorem abs_depthScale_le {d : Amplitude} (hd : InUnit d) (sum2 : Int) : |depthScale d sum2| ≤ |sum2| :=
  abs_scaleQ12_le _ _ (abs_floorQ12_le hd)

/-! ## The four stages -/

theorem stageIn_succ (s : State) (apin : Int) (i : Fin 3) :
    stageIn s apin i.succ = stageOut s i.castSucc (stageIn s apin i.castSucc) := by
  fin_cases i <;> rfl

section BoundedGains

variable {s : State} (hg : ∀ i, |s.gain (.ap i)| ≤ 4096)
include hg

theorem abs_feedIn_le (i : Fin 4) (v : Int) : |feedIn s i v| ≤ |v| + 2 ^ 31 :=
  (abs_add_le _ _).trans <| add_le_add_right ((abs_scaleQ12_le _ _ (hg i)).trans (s.abs_dbRead_le _ _)) _

theorem abs_stageOut_le (i : Fin 4) (v : Int) : |stageOut s i v| ≤ |v| + 2 ^ 32 := by
  have hz : |tapA s i| ≤ 2 ^ 31 := s.abs_dbRead_le _ _
  calc |stageOut s i v| ≤ |tapA s i| + |scaleQ12 (feedIn s i v) (s.gain (.ap i))| := abs_sub _ _
    _ ≤ |tapA s i| + |feedIn s i v| := add_le_add_right (abs_scaleQ12_le _ _ (hg i)) _
    _ ≤ |v| + 2 ^ 32 := by linarith [abs_feedIn_le hg i v]

theorem abs_stageIn_le (apin : Int) (i : Fin 4) : |stageIn s apin i| ≤ |apin| + i.val * 2 ^ 32 := by
  induction i using Fin.induction with
  | zero => simp [stageIn]
  | succ i ih =>
    rw [stageIn_succ]
    have hout := abs_stageOut_le hg i.castSucc (stageIn s apin i.castSucc)
    simp only [Fin.val_castSucc, Fin.val_succ] at ih ⊢
    push_cast
    linarith

theorem abs_apChain_fst_le (apin : Int) : |(apChain apin s).1| ≤ |apin| + 2 ^ 34 := by
  have hin : |stageIn s apin 3| ≤ |apin| + 3 * 2 ^ 32 := abs_stageIn_le hg apin 3
  rw [apChain_eq]
  calc |stageOut s 3 (stageIn s apin 3)| ≤ |stageIn s apin 3| + 2 ^ 32 := abs_stageOut_le hg 3 _
    _ ≤ |apin| + 2 ^ 34 := by linarith

end BoundedGains

/-! ## The comb stages leave the chain's gains and the depth (rule R47) -/

@[simp] theorem combStages_depth (x : Int) (s : State) : (combStages x s).2.depth = s.depth := by simp [combStages]

@[simp] theorem combStages_gain_ap (x : Int) (s : State) (i : Fin 4) :
    (combStages x s).2.gain (.ap i) = s.gain (.ap i) := by
  rw [State.gain, combStages, combB_buffer_ap, combA_buffer_ap, State.gain]

/-- The all-pass gains of an initialised block are the bounded coefficient of its configuration (rules R10, R45). -/
theorem State.Inv.abs_gain_ap_le {s : State} (hs : s.Inv) (hi : s.inited = true) (i : Fin 4) :
    |s.gain (.ap i)| ≤ 4096 := by
  rw [State.gain, (hs.registers hi).gainAp i]
  exact abs_le.mpr (Cfg.scalars_of_admitted hs.admitted).1

/-- Settles O45: `apin` is within 3 × 2^31, and each of the four stages adds at most 2^32. -/
theorem wetSampleBounded : Obligations.WetSampleBounded := by
  intro s x hs hi
  have hgain (i : Fin 4) : |(combStages x s).2.gain (.ap i)| ≤ 4096 := by
    rw [combStages_gain_ap]
    exact hs.abs_gain_ap_le hi i
  have hdepth : InUnit (combStages x s).2.depth := by
    rw [combStages_depth]
    exact (hs.registers hi).depth
  calc |(diffuse (combStages x s)).1|
      ≤ |depthScale (combStages x s).2.depth (combStages x s).1| + 2 ^ 34 := abs_apChain_fst_le hgain _
    _ ≤ |(combStages x s).1| + 2 ^ 34 := by linarith [abs_depthScale_le hdepth (combStages x s).1]
    _ ≤ 3 * 2 ^ 31 + 2 ^ 34 := add_le_add_left (abs_combB_fst_le (combA x s).1 (combA x s).2) _
    _ < 2 ^ 35 := by norm_num

end Sys2Proof.Machine
end

section
/-!
PROOFS. The Soft Limiter (laws L2 to L4 of rule R178, property EP7): its branch at and above the ceiling is the sign of
the operand times a compressed magnitude, and every property is one of that magnitude.
-/

namespace Sys2Proof.Machine

/-! ## The sign (rule R14) -/

theorem sgn_neg (y : Amplitude) : sgn (-y) = -sgn y := by
  rcases lt_trichotomy y 0 with hy | rfl | hy
  · simp [sgn, hy, hy.not_gt, hy.ne]
  · simp [sgn]
  · simp [sgn, hy, hy.not_gt, hy.ne']

theorem abs_sgn_le_one (y : Amplitude) : |sgn y| ≤ 1 := by
  unfold sgn
  split_ifs <;> simp

/-! ## The compressed magnitude (rule R176) -/

/-- What LIMIT makes of a magnitude `m` at or above the configured ceiling, before the sign. -/
def compressed (cfg : Cfg) (m : Amplitude) : Amplitude :=
  cfg.num.rnd (cfg.ceil + cfg.softclip cfg.ceil (cfg.num.rnd (m - cfg.ceil)))

theorem limit_eq_sgn_mul_compressed {cfg : Cfg} {y : Amplitude} (h : cfg.ceil ≤ |y|) :
    limit cfg cfg.ceil y = sgn y * compressed cfg |y| := limit_of_ge cfg h

section Admitted

variable {cfg : Cfg} (hadm : cfg.admitted = true)
include hadm

theorem limit_eq_compressed {y : Amplitude} (h : cfg.ceil ≤ y) : limit cfg cfg.ceil y = compressed cfg y :=
  limit_of_pos cfg h ((Cfg.scalars_of_admitted hadm).2.1.trans_le h)

theorem rnd_excess_nonneg {m : Amplitude} (hm : cfg.ceil ≤ m) : 0 ≤ cfg.num.rnd (m - cfg.ceil) :=
  (Cfg.lawful_of_admitted hadm).rnd_nonneg (sub_nonneg.mpr hm)

/-- By SC3 the ceiling and the curve have a positive sum, which rounds to no less than 0. -/
theorem compressed_nonneg {m : Amplitude} (hm : cfg.ceil ≤ m) : 0 ≤ compressed cfg m :=
  (Cfg.lawful_of_admitted hadm).rnd_nonneg ((Cfg.curve_of_admitted hadm).sign _ (rnd_excess_nonneg hadm hm)).le

/-- By SC1, between two roundings that keep the order. -/
theorem compressed_mono {m p : Amplitude} (hm : cfg.ceil ≤ m) (hp : m ≤ p) : compressed cfg m ≤ compressed cfg p := by
  have hn := Cfg.lawful_of_admitted hadm
  have hexcess : cfg.num.rnd (m - cfg.ceil) ≤ cfg.num.rnd (p - cfg.ceil) := hn.rnd_mono _ _ (sub_le_sub_right hp _)
  have hcurve := (Cfg.curve_of_admitted hadm).mono _ _ (rnd_excess_nonneg hadm hm) hexcess
  exact hn.rnd_mono _ _ (add_le_add_right hcurve _)

theorem compressed_le {top m : Amplitude} (htop : ∀ e, 0 ≤ e → cfg.softclip cfg.ceil e ≤ top) (hm : cfg.ceil ≤ m) :
    compressed cfg m ≤ cfg.num.rnd (cfg.ceil + top) :=
  (Cfg.lawful_of_admitted hadm).rnd_mono _ _ (add_le_add_right (htop _ (rnd_excess_nonneg hadm hm)) _)

/-! ## LIMIT on both sides of its ceiling (rule R178) -/

/-- Law L2: below the ceiling the operand is its own bound, and at or above it the compressed magnitude is bounded. -/
theorem abs_limit_le {top : Amplitude} (htop : ∀ e, 0 ≤ e → cfg.softclip cfg.ceil e ≤ top) (y : Amplitude) :
    |limit cfg cfg.ceil y| ≤ max cfg.ceil (cfg.num.rnd (cfg.ceil + top)) := by
  rcases lt_or_ge |y| cfg.ceil with hlt | hge
  · rw [limit_of_lt cfg hlt]
    exact le_max_of_le_left hlt.le
  · have hc : 0 ≤ compressed cfg |y| := compressed_nonneg hadm hge
    refine le_max_of_le_right ?_
    calc |limit cfg cfg.ceil y| = |sgn y| * compressed cfg |y| := by
          rw [limit_eq_sgn_mul_compressed hge, abs_mul, abs_of_nonneg hc]
      _ ≤ compressed cfg |y| := mul_le_of_le_one_left hc (abs_sgn_le_one y)
      _ ≤ cfg.num.rnd (cfg.ceil + top) := compressed_le hadm htop hge

theorem limit_nonneg {y : Amplitude} (hy : 0 ≤ y) : 0 ≤ limit cfg cfg.ceil y := by
  rcases lt_or_ge y cfg.ceil with hlt | hge
  · rwa [limit_of_lt cfg ((abs_of_nonneg hy).trans_lt hlt)]
  · rw [limit_eq_compressed hadm hge]
    exact compressed_nonneg hadm hge

theorem limit_mono_of_ceil_le {y w : Amplitude} (hy : cfg.ceil ≤ y) (hw : y ≤ w) :
    limit cfg cfg.ceil y ≤ limit cfg cfg.ceil w := by
  rw [limit_eq_compressed hadm hy, limit_eq_compressed hadm (hy.trans hw)]
  exact compressed_mono hadm hy hw

end Admitted

/-- Both branches of LIMIT read the magnitude, so only the sign turns. -/
theorem limit_neg (cfg : Cfg) (c y : Amplitude) : limit cfg c (-y) = -limit cfg c y := by
  rcases lt_or_ge |y| c with hlt | hge
  · rw [limit_of_lt cfg hlt, limit_of_lt cfg ((abs_neg y).trans_lt hlt)]
  · rw [limit_of_ge cfg hge, limit_of_ge cfg (hge.trans_eq (abs_neg y).symm), sgn_neg, abs_neg, neg_mul]

/-- Settles O46: the output of a frame is LIMIT of some operand, and LIMIT is bounded on every operand. -/
theorem outputBounded : Obligations.OutputBounded := by
  intro s v top hadm hf hi htop
  exact ⟨frame v s, frameOut v s, exec_proc_of_ready (s.ready_iff.mpr ⟨hf, hi⟩) v, frame_resp v s,
    abs_limit_le hadm htop _⟩

/-- Settles O47: the sign turns with the operand, and the compressed magnitude is not negative and keeps the order. -/
theorem limiterOddAndMonotone : Obligations.LimiterOddAndMonotone :=
  fun c y _ hadm => ⟨limit_neg c c.ceil y, limit_nonneg hadm, limit_mono_of_ceil_le hadm⟩

end Sys2Proof.Machine
end

section
/-!
PROOFS. The commands but PROC: what INIT, PARAM and RESUME leave, and what they forget (rules R196, R198, R210 to R220,
R231, R232).
-/

namespace Sys2Proof.Machine

/-! ## The refusal (rule R232) -/

theorem State.ready_eq_false_iff (s : State) : s.ready = false ↔ s.fault = true ∨ s.inited = false := by
  cases hf : s.fault <;> simp [State.ready, hf]

/-- Every command but INIT is refused on a block that is not ready, and nothing but the response is written. -/
theorem exec_of_not_ready {i : Instr} (hi : i ≠ .init) {s : State} (h : s.fault = true ∨ s.inited = false) :
    exec i s = .next { s with resp := some ⟨.refused, none⟩ } := by
  have hr : s.ready = false := s.ready_eq_false_iff.mpr h
  cases i with
  | init => exact absurd rfl hi
  | _ => exact whenReady_of_not_ready hr _

/-! ## INIT (rules R210, R231) -/

theorem exec_init_of_offender {s : State} (hf : s.fault = false) {b : Slot} (h : s.cfg.firstOffender = some b) :
    exec .init s = .next { s with fault := true, resp := some ⟨.fault b, none⟩ } := by
  simp [exec, execInit, hf, h, State.raiseConfigFatal]

theorem exec_init_of_capsOk {s : State} (hf : s.fault = false) (h : s.cfg.capsOk = true) :
    exec .init s = .next (initRegisters s).endDone := by
  simp [exec, execInit, hf, s.cfg.firstOffender_eq_none.mpr h]

/-- The first offender with the test of rule R10 written out. -/
theorem firstOffender_of_split {c : Cfg} {b : Slot} {before after : List Slot} (hall : Slot.all = before ++ b :: after)
    (hb : ¬ ∃ n, c.cap.get b = 2 ^ n) (hbefore : ∀ d ∈ before, ∃ n, c.cap.get d = 2 ^ n) :
    c.firstOffender = some b := by
  rw [← isPowerOfTwo_iff, Bool.not_eq_true] at hb
  exact (c.firstOffender_eq_some b).mpr
    ⟨hb, before, after, hall, fun d hd => (isPowerOfTwo_iff _).mpr (hbefore d hd)⟩

/-- Settles O20: the three ways INIT ends; the buffers after it are known slot by slot, and TIME = 0 selects row 0. -/
theorem initInitialisesBlock : Obligations.InitInitialisesBlock := by
  refine ⟨fun c => (decodeFollowsOpcodeMap c).1, fun s hf => exec_of_fault hf .init,
    fun s b before after hf hall hb hbefore => exec_init_of_offender hf (firstOffender_of_split hall hb hbefore),
    fun s hf hcaps => ?_⟩
  have hrow : gtIndex 0 = 0 := gtIndex_eq_zero (by norm_num)
  have hok : s.cfg.capsOk = true := s.cfg.capsOk_iff.mpr fun b => (isPowerOfTwo_iff _).mpr (hcaps b)
  rw [exec_init_of_capsOk hf hok, Host.Outcome.next.injEq]
  apply State.ext_buffer
  case hb =>
    intro b
    rw [State.buffer_endDone, initRegisters_buffer]
    cases b with
    | comb i => by_cases hi : i.val < 3 <;> simp [State.buffer, Vector.get_eq_getElem, gtRow, gainRow, hrow, hi]
    | ap i => simp [State.buffer, Vector.get_eq_getElem]
  case hr => ext : 1 <;> simp [hrow, hf]

/-- Settles O25: the state that O20 gives names the configuration, the port and the count of free samples alone. -/
theorem initForgetsHistory : Obligations.InitForgetsHistory := by
  intro s t hfs hft hcfg hpending hfree hcaps
  obtain ⟨-, -, -, hinit⟩ := initInitialisesBlock
  rw [hinit s hfs hcaps, hinit t hft (hcfg ▸ hcaps), hcfg, hpending, hfree]

/-! ## PARAM (rules R212 to R218) -/

/-- Settles O26: GAIN.LOAD after the write of TIME and TIDX, and no other field is written. -/
theorem paramTimeResult : Obligations.ParamTimeResult := by
  intro s v
  refine ⟨decode_paramTime _, exec_of_not_ready (by simp), fun hf hi => ?_⟩
  exact ⟨(setTime v s).endDone, exec_paramTime_of_ready (s.ready_iff.mpr ⟨hf, hi⟩) v, setTime_time v s,
    gtIndex_val_eq_floor (clip01 v), gainLoad_gain_early _, gainLoad_gain_late _, fun i => setTime_buffer v s (.ap i),
    setTime_ring v s, rfl, by ext : 1 <;> simp⟩

/-- Settles O28: the operand is clamped and written, and no other field. -/
theorem paramDepthResult : Obligations.ParamDepthResult := fun s _ =>
  ⟨decode_paramDepth _, exec_of_not_ready (by simp), fun hf hi => whenReady_of_ready (s.ready_iff.mpr ⟨hf, hi⟩) _⟩

/-- Settles O29: the operand is clamped, remapped and written, and no other field. -/
theorem paramMixResult : Obligations.ParamMixResult := fun s _ =>
  ⟨decode_paramMix _, exec_of_not_ready (by simp), fun hf hi => whenReady_of_ready (s.ready_iff.mpr ⟨hf, hi⟩) _⟩

/-- Settles O31: the row PARAM #n takes the index, and its command ends done at once. -/
theorem paramUnknownIndexIgnored : Obligations.ParamUnknownIndexIgnored := by
  intro s n v hn
  refine ⟨?_, exec_of_not_ready (by simp), fun hf hi => whenReady_of_ready (s.ready_iff.mpr ⟨hf, hi⟩) _⟩
  rw [paramOther_word]
  exact decode_paramOther hn v

/-! ## The mix remap (rule R198) -/

/-- MIX.REMAP before its rounding: two slopes that meet in the dead zone. -/
def mixLine (v : Amplitude) : Amplitude :=
  if v < 49 / 100 then v * (50 / 49)
  else if v ≤ 51 / 100 then 1 / 2
  else 1 / 2 + (v - 51 / 100) * (50 / 49)

/-- The dead zone is no exception to the rounding, because 1/2 is representable (law N4). -/
theorem mixRemap_eq_rnd {n : Numerics} {c : Cfg} (hn : n.Lawful c) (v : Amplitude) :
    mixRemap n v = n.rnd (mixLine v) := by
  rw [mixRemap, mixLine, apply_ite n.rnd, apply_ite n.rnd, hn.rnd_half]

theorem mixLine_mono {u v : Amplitude} (h : u ≤ v) : mixLine u ≤ mixLine v := by
  unfold mixLine
  split_ifs <;> linarith

theorem mixRemap_mono {n : Numerics} {c : Cfg} (hn : n.Lawful c) {u v : Amplitude} (h : u ≤ v) :
    mixRemap n u ≤ mixRemap n v := by
  rw [mixRemap_eq_rnd hn, mixRemap_eq_rnd hn]
  exact hn.rnd_mono _ _ (mixLine_mono h)

theorem mixRemap_of_deadZone (n : Numerics) {v : Amplitude} (h0 : 49 / 100 ≤ v) (h1 : v ≤ 51 / 100) :
    mixRemap n v = 1 / 2 := by
  rw [mixRemap, if_neg (not_lt.mpr h0), if_pos h1]

/-- Settles O30: the remap is the rounding of a monotone line, and both ends of the dead zone lie in it. -/
theorem mixRemapMonotone : Obligations.MixRemapMonotone := by
  intro c u v hadm hu huv hv
  have hn := Cfg.lawful_of_admitted hadm
  exact ⟨mixRemap_inUnit hn ⟨hu.trans huv, hv⟩, mixRemap_mono hn huv, fun h0 h1 =>
    ⟨mixRemap_of_deadZone _ h0 (huv.trans h1), mixRemap_of_deadZone _ (h0.trans huv) h1⟩⟩

/-! ## RESUME (rule R220) -/

/-- The state that RESUME leaves of a ready block. -/
def resumed (s : State) : State := (s.dbResetAll.writeRamp 0).endDone

/-- RESUME on a ready block completes. -/
theorem exec_resume_of_ready {s : State} (h : s.ready = true) : exec .resume s = .next (resumed s) :=
  whenReady_of_ready h _

theorem resumed_buffer (s : State) (b : Slot) : (resumed s).buffer b = ⟨[], 0, (s.buffer b).gain⟩ := by
  rw [resumed, State.buffer_endDone, State.buffer_writeRamp, State.buffer_dbResetAll]
  rfl

@[simp] theorem resumed_cfg (s : State) : (resumed s).cfg = s.cfg := by simp [resumed]
@[simp] theorem resumed_mix (s : State) : (resumed s).mix = s.mix := by simp [resumed]
@[simp] theorem resumed_ramp (s : State) : (resumed s).ramp = 0 := by simp [resumed]
@[simp] theorem resumed_ready (s : State) : (resumed s).ready = s.ready := by simp [resumed, State.ready]

/-- Settles O32: the last row of the opcode map, and the state that RESUME leaves. -/
theorem resumeResult : Obligations.ResumeResult := by
  refine ⟨fun c => ?_, fun s => ⟨exec_of_not_ready (by simp), fun hf hi => ?_⟩⟩
  · obtain ⟨-, -, -, -, -, -, hresume, -⟩ := decodeFollowsOpcodeMap c
    exact hresume
  · exact ⟨resumed s, exec_resume_of_ready (s.ready_iff.mpr ⟨hf, hi⟩), resumed_buffer s, resumed_ramp s, rfl,
      by ext : 1 <;> simp [resumed]⟩

/-- RESUME writes over the rings, the ramp and the response: of what they held only the gains count. -/
theorem resumed_overwrites (s : State) {k : Bank DelayBuffer} (r : Amplitude) (p : Option Response)
    (hgain : ∀ b, (k.get b).gain = (s.buffer b).gain) :
    resumed { s with buf := k, ramp := r, resp := p } = resumed s := by
  apply State.ext_buffer
  case hb =>
    intro b
    rw [resumed_buffer, resumed_buffer, ← hgain]
    rfl
  case hr => ext : 1 <;> simp [resumed]

/-- Settles O33: the second block is the first with other rings, another ramp and another response. -/
theorem resumeErasesRings : Obligations.ResumeErasesRings := by
  intro s t hf hi hgain hrest
  have hs : s.ready = true := s.ready_iff.mpr ⟨hf, hi⟩
  have ht : t.ready = true := hrest ▸ hs
  have hsame : resumed s = resumed t :=
    (resumed_overwrites s t.ramp t.resp fun b => (hgain b).symm).symm.trans (congrArg resumed hrest)
  rw [exec_resume_of_ready hs, exec_resume_of_ready ht, hsame]

/-! ## The frame after a RESUME (rule R220) -/

/-- A frame's stores depend on the input through the ramped input alone (rule R202). -/
theorem frameStore_congr_input {v w : Amplitude} {s : State} (h : rampedInput v s = rampedInput w s) (b : Slot) :
    frameStore v s b = frameStore w s b := by
  have hx : frameX v s = frameX w s := by rw [frameX_eq, frameX_eq, h]
  unfold frameStore
  rw [hx]

theorem rampedInput_of_ramp_zero {s : State} (hn : s.cfg.num.Lawful s.cfg) (h : s.ramp = 0) (v : Amplitude) :
    rampedInput v s = 0 := by
  rw [rampedInput, h, mul_zero, hn.rnd_zero]

/-- Settles O42: at RAMP = 0 the frame stores what a zero input would, which is 0 in clear rings. -/
theorem frameAfterResumeIsDry : Obligations.FrameAfterResumeIsDry := by
  intro s v hadm hf hi n o
  have hr : s.ready = true := s.ready_iff.mpr ⟨hf, hi⟩
  have hn : (resumed s).cfg.num.Lawful (resumed s).cfg := by simpa using Cfg.lawful_of_admitted hadm
  have hclear : ∀ b, ((resumed s).buffer b).mem = [] := fun b => by rw [resumed_buffer]
  have hin : rampedInput v (resumed s) = 0 := rampedInput_of_ramp_zero hn (resumed_ramp s) v
  have hstore : ∀ b, frameStore v (resumed s) b = 0 := fun b =>
    (frameStore_congr_input (hin.trans (rampedInput_zero hn).symm) b).trans (frameStore_zero_of_clear hclear hn b)
  have hout : frameOut v (resumed s) = o := by
    rw [frameOut_of_dry (fun i => hclear (.ap i)) (frameApin_of_clear hclear) hn, hin, resumed_cfg, resumed_mix]
  exact ⟨resumed s, frame v (resumed s), exec_resume_of_ready hr, exec_proc_of_ready ((resumed_ready s).trans hr) v,
    by rw [frame_resp, hout], fun b => frame_clear (hclear b) (hstore b)⟩

end Sys2Proof.Machine
end

section
/-!
PROOFS. The input-gain ramp: one advance, a run of frames, and the closed form under NUM_EXACT (rules R191, R192,
R208, property EP2).
-/

namespace Sys2Proof.Machine

/-! ## One advance (rule R208) -/

/-- Settles O36: the ramp after a frame is RAMP.ADV of the ramp before it. -/
theorem procAdvancesRamp : Obligations.ProcAdvancesRamp := fun s v hf hi =>
  ⟨frame v s, exec_proc_of_ready (s.ready_iff.mpr ⟨hf, hi⟩) v, frame_ramp v s⟩

/-- RAMP.ADV never lowers a representable ramp in [0,1] (law N5). -/
theorem le_rampNext {c : Cfg} (hn : c.num.Lawful c) {r : Amplitude} (h : InUnit r) (hr : c.num.rnd r = r) :
    r ≤ rampNext c r := by
  rcases rampNext_cases c r with he | ⟨hne, he, -⟩
  · rw [he]
    exact h.2
  · rw [he]
    exact (hn.ramp_up r hr h.1 (lt_of_le_of_ne h.2 hne)).1

/-- Settles O48: PROC alone advances the ramp, the other commands leave it, and the invariant keeps it at most 1. -/
theorem rampOnlyRises : Obligations.RampOnlyRises := by
  intro i s t hs hi hinit hresume h
  have hd := exec_next h
  have hregs := hs.registers hi
  refine ⟨?_, ((hd.inv hs).registers (hd.inited_of_inited hi)).ramp.2⟩
  obtain rfl | hr := hd.of_ne_init hinit
  · simp
  · cases hr with
    | proc v =>
      rw [frame_ramp]
      exact le_rampNext (Cfg.lawful_of_admitted hs.admitted) hregs.ramp hregs.rampKept
    | resume => exact absurd rfl hresume
    | _ => simp

/-! ## A run of frames (rules R81, R208) -/

/-- A step with a PROC on the port is a frame of the state without it. -/
theorem step_proc {s : State} {v : Amplitude} {cs : List Command} (h : s.ready = true)
    (hp : s.pending = ⟨0x100#10, .finite v⟩ :: cs) : step s = .next (frame v { s with pending := cs }) := by
  have hdec : decode ⟨0x100#10, .finite v⟩ = .proc (.finite v) := decode_proc 0x00#8 _
  rw [step_of_pending_cons hp, hdec]
  exact exec_proc_of_ready (s := { s with pending := cs }) h v

/-- A run of PROC commands advances the ramp once for each. -/
theorem run_frames (v : Amplitude) (n : Nat) {s : State} (h : s.ready = true)
    (hp : s.pending = List.replicate n ⟨0x100#10, .finite v⟩) :
    ∃ t, Host.Core.run core n s = .next t ∧ t.ramp = (rampNext s.cfg)^[n] s.ramp := by
  induction n generalizing s with
  | zero => exact ⟨s, rfl, rfl⟩
  | succ n ih =>
    obtain ⟨t, hrun, hramp⟩ := ih (s := frame v { s with pending := List.replicate n ⟨0x100#10, .finite v⟩ })
      (by simpa [State.ready] using h) (by simp)
    refine ⟨t, (run_succ_of_step (step_proc h hp) n).trans hrun, ?_⟩
    simpa using hramp

/-! ## The fade-in under NUM_EXACT (rules R192, R208) -/

section Exact

variable {c : Cfg} (hx : c.numChoice = .exact)
include hx

/-- One exact advance scales the distance to 1 by `1 - RAMP_STEP`; at distance 0 the power stays 0. -/
theorem rampNext_exact (k : Nat) :
    rampNext c (1 - (1 - c.rampStep) ^ k) =
      if (1 - c.rampStep) ^ (k + 1) < c.rampEps then 1 else 1 - (1 - c.rampStep) ^ (k + 1) := by
  have hupdate : c.num.rampUpdate c.rampStep (1 - (1 - c.rampStep) ^ k) = 1 - (1 - c.rampStep) ^ (k + 1) := by
    simp only [Cfg.num, hx, Numerics.rampUpdate, Numerics.exact]
    ring
  have hdist : c.num.rnd (1 - (1 - (1 - c.rampStep) ^ (k + 1))) = (1 - c.rampStep) ^ (k + 1) := by
    simp only [Cfg.num, hx, Numerics.exact]
    ring
  rw [rampNext, hupdate, hdist]
  split
  case isTrue h1 =>
    have hzero : (1 - c.rampStep) ^ (k + 1) = 0 := by
      rw [pow_succ, sub_eq_self.mp h1, zero_mul]
    rw [hzero, sub_zero, ite_self]
  case isFalse => rfl

/-- While no advance has snapped, the distance to 1 is the power of `1 - RAMP_STEP`. -/
theorem iterate_rampNext_exact {n : Nat} (h : ∀ k, 1 ≤ k → k ≤ n → c.rampEps ≤ (1 - c.rampStep) ^ k) :
    (rampNext c)^[n] 0 = 1 - (1 - c.rampStep) ^ n := by
  induction n with
  | zero => simp
  | succ n ih =>
    have hno : ¬ (1 - c.rampStep) ^ (n + 1) < c.rampEps := not_lt.mpr (h (n + 1) (by omega) le_rfl)
    rw [Function.iterate_succ_apply', ih fun k h1 hk => h k h1 (by omega), rampNext_exact hx, if_neg hno]

end Exact

/-- Settles O49: the run iterates RAMP.ADV, and only its last advance can be the one that snaps. -/
theorem exactFadeIn : Obligations.ExactFadeIn := by
  intro s v n hf hi hx hramp hp hk
  obtain ⟨t, hrun, ht⟩ := run_frames v n (s.ready_iff.mpr ⟨hf, hi⟩) hp
  rw [hramp] at ht
  refine ⟨t, hrun, ?_⟩
  cases n with
  | zero => simpa using ht
  | succ n =>
    rw [Function.iterate_succ_apply', iterate_rampNext_exact hx fun k h1 hn => hk k h1 (by omega),
      rampNext_exact hx] at ht
    rw [ht]
    exact ⟨fun h => if_neg (not_lt.mpr (h.resolve_left (by omega))), fun _ h => if_pos h⟩

end Sys2Proof.Machine
end

section
/-!
PROOFS. The two exceptions: what ConfigFatal and NotInitialized write, and how the block is left by them (rules R231,
R232, R244).
-/

namespace Sys2Proof.Machine

/-! ## NotInitialized (rule R232) -/

/-- Settles O22: FAULT refuses every command, and a block without INITED every command but INIT. -/
theorem notInitializedRefusal : Obligations.NotInitializedRefusal := by
  rintro i s (hf | ⟨hi, hinit⟩)
  · exact exec_of_fault hf i
  · exact exec_of_not_ready hinit (.inr hi)

/-! ## ConfigFatal (rule R231) -/

/-- Settles O21: INIT ends at the first offender, and the FAULT it sets refuses every command. -/
theorem initRaisesConfigFatal : Obligations.InitRaisesConfigFatal :=
  fun _ _ _ _ hf hall hb hbefore =>
    ⟨exec_init_of_offender hf (firstOffender_of_split hall hb hbefore), fun i => exec_of_fault rfl i⟩

/-! ## An INIT after a refusal (rule R244) -/

/-- INIT does not read the last response: with legal capacities it forgets it, and ConfigFatal writes over it. -/
theorem exec_init_with_resp {s : State} (hf : s.fault = false) (p : Option Response) :
    exec .init { s with resp := p } = exec .init s := by
  cases ho : s.cfg.firstOffender with
  | none =>
    have hcaps : ∀ b, ∃ n, s.cfg.cap.get b = 2 ^ n := fun b =>
      (isPowerOfTwo_iff _).mp (s.cfg.capsOk_iff.mp (s.cfg.firstOffender_eq_none.mp ho) b)
    exact initForgetsHistory _ s hf hf rfl rfl rfl hcaps
  | some b => rw [exec_init_of_offender hf ho, exec_init_of_offender (s := { s with resp := p }) hf ho]

/-- Settles O23: a refusal writes the response alone, which INIT does not read. -/
theorem refusalLeavesInitUnchanged : Obligations.RefusalLeavesInitUnchanged :=
  fun i s hf hi hinit => ⟨_, notInitializedRefusal i s (.inr ⟨hi, hinit⟩), exec_init_with_resp hf _⟩

end Sys2Proof.Machine
end

section
/-!
PROOFS. The run of rule R268: once an INIT has completed, every command with a finite operand ends `done` (rules R231,
R232).
-/

namespace Sys2Proof

theorem Command.hasFiniteDin_iff (c : Command) : c.hasFiniteDin = true ↔ ∃ v, c.din = .finite v := by
  obtain ⟨cw, d⟩ := c
  cases d <;> simp [Command.hasFiniteDin]

theorem Cfg.capsOk_of_wf {c : Cfg} (h : c.wf = true) : c.capsOk = true := (Bool.and_eq_true_iff.mp h).1

namespace Machine

/-! ## A command of a ready block completes -/

namespace Ran

variable {i : Instr} {s t : State} (h : Ran s i t)
include h

theorem ready_eq : t.ready = s.ready := by rw [State.ready, State.ready, h.fault_eq, h.inited_eq]

theorem resp_done : ∃ out, t.resp = some ⟨.done, out⟩ := by
  cases h with
  | proc v => exact ⟨_, frame_resp v s⟩
  | _ => exact ⟨none, State.endDone_resp _⟩

end Ran

/-- A ready block runs every command but INIT whose DIN is a finite number: the one stop of the model is a DIN that is
none (rules R84, R234). -/
theorem exec_ran_of_ready {s : State} (hs : s.ready = true) {c : Command} (hfin : c.hasFiniteDin = true)
    (hinit : decode c ≠ .init) : ∃ t, exec (decode c) s = .next t ∧ Ran s (decode c) t := by
  obtain ⟨v, hv⟩ := c.hasFiniteDin_iff.mp hfin
  cases c using Command.rowCases with
  | init idx d => exact absurd (decode_init idx d) hinit
  | proc idx d =>
    cases hv
    rw [decode_proc]
    exact ⟨_, exec_proc_of_ready hs v, .proc v⟩
  | paramTime d =>
    cases hv
    rw [decode_paramTime]
    exact ⟨_, exec_paramTime_of_ready hs v, .time v⟩
  | paramDepth d =>
    cases hv
    rw [decode_paramDepth]
    exact ⟨_, whenReady_of_ready hs _, .depth v⟩
  | paramMix d =>
    cases hv
    rw [decode_paramMix]
    exact ⟨_, whenReady_of_ready hs _, .mix v⟩
  | paramOther n d hn =>
    rw [decode_paramOther hn]
    exact ⟨_, whenReady_of_ready hs _, .other n d⟩
  | resume idx d =>
    rw [decode_resume]
    exact ⟨_, exec_resume_of_ready hs, .resume⟩

/-! ## What each step of the run keeps -/

/-- The block after a completed command of the run: its last answer was `done`, it is ready for any command, and a
further INIT would find legal capacities. -/
structure State.Served (s : State) : Prop where
  caps  : s.cfg.capsOk = true
  ready : s.ready = true
  done  : ∃ out, s.resp = some ⟨.done, out⟩

section Steps

variable {s : State} {c : Command} {cs : List Command} (hp : s.pending = c :: cs)
include hp

/-- INIT starts the run on any block without a fault whose capacities are legal (rules R210, R231). -/
theorem step_init_served (hcaps : s.cfg.capsOk = true) (hf : s.fault = false) (hc : decode c = .init) :
    ∃ t, step s = .next t ∧ t.Served ∧ t.pending = cs := by
  rw [step_of_pending_cons hp, hc]
  refine ⟨_, exec_init_of_capsOk (s := { s with pending := cs }) hf hcaps, ⟨?_, ?_, none, State.endDone_resp _⟩, ?_⟩
  · simpa using hcaps
  · simpa [State.ready] using hf
  · simp

/-- A command with a finite operand continues the run; it may be another INIT. -/
theorem State.Served.step (hs : s.Served) (hfin : c.hasFiniteDin = true) :
    ∃ t, Machine.step s = .next t ∧ t.Served ∧ t.pending = cs := by
  obtain ⟨hcaps, hready, -⟩ := hs
  by_cases hc : decode c = .init
  · exact step_init_served hp hcaps (s.ready_iff.mp hready).1 hc
  · obtain ⟨t, ht, hran⟩ := exec_ran_of_ready (s := { s with pending := cs }) hready hfin hc
    exact ⟨t, (step_of_pending_cons hp).trans ht,
      ⟨hran.cfg_eq ▸ hcaps, hran.ready_eq.trans hready, hran.resp_done⟩, hran.pending_eq⟩

end Steps

/-- While commands with finite operands are on the port, the run goes on, step by step. -/
theorem State.Served.run {s : State} (hs : s.Served) (hfin : ∀ d ∈ s.pending, d.hasFiniteDin = true) {k : Nat}
    (hk : k ≤ s.pending.length) : ∃ t, Host.Core.run core k s = .next t ∧ t.Served := by
  induction k generalizing s with
  | zero => exact ⟨s, rfl, hs⟩
  | succ k ih =>
    cases hp : s.pending with
    | nil => simp [hp] at hk
    | cons c cs =>
      rw [hp, List.forall_mem_cons] at hfin
      rw [hp, List.length_cons] at hk
      obtain ⟨hc, hcs⟩ := hfin
      obtain ⟨t, hstep, ht, rfl⟩ := hs.step hp hc
      rw [run_succ_of_step hstep]
      exact ih ht hcs (Nat.le_of_succ_le_succ hk)

/-- Settles O56: INIT serves the block, as its capacities are legal, and every later step keeps it served. -/
theorem initialisedRunIsNeverRefused : Obligations.InitialisedRunIsNeverRefused := by
  intro s c cs hwf hf hc hp hfin k hk1 hk
  obtain ⟨k, rfl⟩ := Nat.exists_eq_add_of_le' hk1
  obtain ⟨t, hstep, ht, rfl⟩ := step_init_served hp (Cfg.capsOk_of_wf hwf) hf hc
  obtain ⟨u, hrun, hu⟩ := ht.run hfin (Nat.le_of_succ_le_succ hk)
  obtain ⟨out, hdone⟩ := hu.done
  obtain ⟨hfault, hinited⟩ := u.ready_iff.mp hu.ready
  exact ⟨u, out, (run_succ_of_step hstep k).trans hrun, hdone, hinited, hfault⟩

end Machine

end Sys2Proof
end
